-- ==== Sys2Proof/Word.lean ====
section
/-! DEFINITION. The word types of the dartboy PPU and nothing else: bytes, colours, framebuffer cells,
colour indices, priority tags, palettes and tile rows (30_encoding.md R96 to R100). -/

namespace Sys2Proof

/-- A byte, "always read as an unsigned integer 0..255" (R7). -/
abbrev Byte := BitVec 8

/-- A 24-bit RGB value: red in bits 23..16, green in 15..8, blue in 7..0. The alpha byte, "always zero"
(R31, R98), is not stored. -/
abbrev Color := BitVec 24

/-- A framebuffer cell `0xPP_RR_GG_BB`: priority tag in bits 31..24, colour below (R99). -/
abbrev Cell := BitVec 32

/-- The 2-bit value a tile pixel holds (00_scope.md glossary). -/
abbrev ColorIndex := BitVec 2

/-- A priority tag number as an operand field carries it, `q[2:0]` and `base[2:0]` (R100, R102). -/
abbrev Tag := BitVec 3

/-- Four colours (R31). -/
abbrev Palette := Vector Color 4

/-- The eight colour indices `TILE.FETCH_ROW` returns, entry 0 the leftmost pixel (R140). -/
abbrev PixelRow := Vector ColorIndex 8

end Sys2Proof
end

