-- ==== Sys2Proof/Syntax.lean ====
section
/-! DEFINITION. The operations of the block (30_encoding.md R108, spec/opcode_table.json), one constructor a row,
with the argument fields of R102; and a command as the host issues it: the pair (`op`, argument fields) of R113. -/

namespace Sys2Proof

/-- The names of the argument fields (R102). -/
inductive Field
  | value | offset | index | bank | tileIndex | row | flipX | flipY | x | y | q | c
  | pal | sx | sy | ly | base | sprite | n
  deriving DecidableEq, Repr

/-- The twenty operations. Field widths are those of R102; the domains narrower than a width are in
`WellFormed.lean`. `sx`, `sy` are unbounded integers and `n` an unbounded natural number, as R102 says. -/
inductive Instr
  /-- op 0, R122 -/
  | palSetDmgBg (value : Byte)
  /-- op 1, R123 -/
  | palSetDmgObj0 (value : Byte)
  /-- op 2, R124 -/
  | palSetDmgObj1 (value : Byte)
  /-- op 3, R125 -/
  | palWriteCgbBg (offset : BitVec 6) (value : Byte)
  /-- op 4, R126 -/
  | palWriteCgbObj (offset : BitVec 6) (value : Byte)
  /-- op 5, R129 -/
  | palBg (index : BitVec 3)
  /-- op 6, R130 -/
  | palObj (index : BitVec 3)
  /-- op 7, R140 -/
  | tileFetchRow (bank : BitVec 1) (tileIndex : BitVec 9) (row : BitVec 3) (flipX flipY : Bool)
  /-- op 8, R150 -/
  | fbPlot (x y : Byte) (q : Tag) (c : Color)
  /-- op 9, R152 -/
  | fbClear
  /-- op 10, R153 -/
  | fbPresent
  /-- op 11, R160 -/
  | draw (ly : Byte)
  /-- op 12, R162 -/
  | drawTile (pal : Palette) (bank : BitVec 1) (tileIndex : BitVec 9) (flipX flipY : Bool) (sx sy : Int)
      (ly : Byte) (base : Tag) (sprite : Bool)
  /-- op 13, R164 -/
  | drawBg (ly : Byte)
  /-- op 14, R166 -/
  | drawObj (ly : Byte)
  /-- op 15, R180 -/
  | drawWin (ly : Byte)
  /-- op 16, R190 -/
  | tick (n : Nat)
  /-- op 17, R200 -/
  | line
  /-- op 18, R250 -/
  | reset
  /-- op 19, R121 -/
  | palInit
  deriving DecidableEq, Repr

/-- A command at the block's port: the 5-bit selector of R108 and the argument fields in R102's order, each the
number it stands for. A palette field is four numbers, colour 0 first. The spec has no bit-level command word
(D1), so the fields are not packed into bits (log 9). -/
structure Command where
  op : BitVec 5
  fields : List Int
  deriving DecidableEq, Repr

/-- Why a command is no operation. Raised by the decoder; safe: the machine stops instead of guessing. -/
inductive DecodeError
  /-- The selector is one of 20 to 31, which "select nothing" (R108, R110). -/
  | unknownSelector (op : BitVec 5)
  /-- The command does not carry the fields of its operation's format (R102). -/
  | wrongFieldCount (op : BitVec 5)
  /-- A field's number does not fit the field's width, so it is "unrepresentable at the port" (R110). -/
  | fieldTooWide (f : Field)
  deriving DecidableEq, Repr

end Sys2Proof
end

