-- ==== Sys2Proof/WellFormed.lean ====
section
/-! DEFINITION. Which operands have a meaning: the stated domains that are narrower than their fields
(30_encoding.md R110, 93_implementation_defined.md U2, the domains of spec/opcode_table.json). -/

namespace Sys2Proof

/-- `tile_index` is in 0..383 (R140). -/
def tileIndexOk (t : BitVec 9) : Bool := decide (t.toNat < 384)

/-- `x` is in 0..159 (R150). -/
def columnOk (x : Byte) : Bool := decide (x.toNat < 160)

/-- `y`, and the `ly` of `DRAW.TILE`, are in 0..143 (R150, R162). -/
def lineOk (y : Byte) : Bool := decide (y.toNat < 144)

/-- The priorities a plot may carry: {1, 2, 3, 5, 6} (U2; log 10). -/
def plotTagOk (q : Tag) : Bool := q == 1 || q == 2 || q == 3 || q == 5 || q == 6

/-- The base priorities of `DRAW.TILE`: 0, P2, P5, P6 (R162). -/
def baseTagOk (q : Tag) : Bool := q == 0 || q == 2 || q == 5 || q == 6

/-- The first field whose value is outside its stated domain, if there is one. -/
def Instr.domainError : Instr → Option Field
  | .palSetDmgBg _ | .palSetDmgObj0 _ | .palSetDmgObj1 _ => none
  | .palWriteCgbBg _ _ | .palWriteCgbObj _ _ => none
  | .palBg _ | .palObj _ => none
  | .tileFetchRow _ t _ _ _ => if tileIndexOk t then none else some .tileIndex
  | .fbPlot x y q _ =>
    if columnOk x then
      if lineOk y then
        if plotTagOk q then none else some .q
      else some .y
    else some .x
  | .fbClear | .fbPresent => none
  | .draw _ => none
  | .drawTile _ _ t _ _ _ _ ly base _ =>
    if tileIndexOk t then
      if lineOk ly then
        if baseTagOk base then none else some .base
      else some .ly
    else some .tileIndex
  | .drawBg _ | .drawObj _ | .drawWin _ => none
  | .tick _ | .line | .reset | .palInit => none

/-- Every operand is inside its stated domain. -/
abbrev Instr.WellFormed (i : Instr) : Prop := i.domainError = none

end Sys2Proof
end

