-- ==== Sys2Proof/Decode.lean ====
section
/-! DEFINITION. Commands and operations: the decoder, total on any command and rejecting by name, and after it the
encoder, both written from 30_encoding.md R102 (fields) and R108 (selectors). -/

namespace Sys2Proof

/-- Read an unsigned field of `w` bits. -/
def readBits (f : Field) (w : Nat) (v : Int) : Except DecodeError (BitVec w) :=
  if 0 ≤ v ∧ v.toNat < 2 ^ w then .ok (BitVec.ofNat w v.toNat) else .error (.fieldTooWide f)

/-- Read a one-bit field that stands for a Boolean. -/
def readBool (f : Field) (v : Int) : Except DecodeError Bool :=
  if v = 0 then .ok false else if v = 1 then .ok true else .error (.fieldTooWide f)

/-- Read the unbounded natural number of format `N`. -/
def readNat (f : Field) (v : Int) : Except DecodeError Nat :=
  if 0 ≤ v then .ok v.toNat else .error (.fieldTooWide f)

/-- Read a palette: four 24-bit colours, colour 0 first. -/
def readPalette (c0 c1 c2 c3 : Int) : Except DecodeError Palette := do
  let c0 ← readBits .pal 24 c0
  let c1 ← readBits .pal 24 c1
  let c2 ← readBits .pal 24 c2
  let c3 ← readBits .pal 24 c3
  .ok #v[c0, c1, c2, c3]

/-- Format `V8`. -/
def decodeV8 (mk : Byte → Instr) (op : BitVec 5) : List Int → Except DecodeError Instr
  | [v] => do
    let v ← readBits .value 8 v
    .ok (mk v)
  | _ => .error (.wrongFieldCount op)

/-- Format `O6V8`. -/
def decodeO6V8 (mk : BitVec 6 → Byte → Instr) (op : BitVec 5) : List Int → Except DecodeError Instr
  | [o, v] => do
    let o ← readBits .offset 6 o
    let v ← readBits .value 8 v
    .ok (mk o v)
  | _ => .error (.wrongFieldCount op)

/-- Format `I3`. -/
def decodeI3 (mk : BitVec 3 → Instr) (op : BitVec 5) : List Int → Except DecodeError Instr
  | [i] => do
    let i ← readBits .index 3 i
    .ok (mk i)
  | _ => .error (.wrongFieldCount op)

/-- Format `FETCH`. -/
def decodeFetch (op : BitVec 5) : List Int → Except DecodeError Instr
  | [b, t, r, fx, fy] => do
    let b ← readBits .bank 1 b
    let t ← readBits .tileIndex 9 t
    let r ← readBits .row 3 r
    let fx ← readBool .flipX fx
    let fy ← readBool .flipY fy
    .ok (.tileFetchRow b t r fx fy)
  | _ => .error (.wrongFieldCount op)

/-- Format `PLOT`. -/
def decodePlot (op : BitVec 5) : List Int → Except DecodeError Instr
  | [x, y, q, c] => do
    let x ← readBits .x 8 x
    let y ← readBits .y 8 y
    let q ← readBits .q 3 q
    let c ← readBits .c 24 c
    .ok (.fbPlot x y q c)
  | _ => .error (.wrongFieldCount op)

/-- Format `NONE`. -/
def decodeNone (i : Instr) (op : BitVec 5) : List Int → Except DecodeError Instr
  | [] => .ok i
  | _ => .error (.wrongFieldCount op)

/-- Format `LY8`. -/
def decodeLY8 (mk : Byte → Instr) (op : BitVec 5) : List Int → Except DecodeError Instr
  | [ly] => do
    let ly ← readBits .ly 8 ly
    .ok (mk ly)
  | _ => .error (.wrongFieldCount op)

/-- Format `TILE`. -/
def decodeTile (op : BitVec 5) : List Int → Except DecodeError Instr
  | [c0, c1, c2, c3, b, t, fx, fy, sx, sy, ly, base, sprite] => do
    let p ← readPalette c0 c1 c2 c3
    let b ← readBits .bank 1 b
    let t ← readBits .tileIndex 9 t
    let fx ← readBool .flipX fx
    let fy ← readBool .flipY fy
    let ly ← readBits .ly 8 ly
    let base ← readBits .base 3 base
    let sprite ← readBool .sprite sprite
    .ok (.drawTile p b t fx fy sx sy ly base sprite)
  | _ => .error (.wrongFieldCount op)

/-- Format `N`. -/
def decodeN (op : BitVec 5) : List Int → Except DecodeError Instr
  | [n] => do
    let n ← readNat .n n
    .ok (.tick n)
  | _ => .error (.wrongFieldCount op)

/-- The operation a command names: the table of R108. -/
def decode (c : Command) : Except DecodeError Instr :=
  match c.op.toNat with
  | 0 => decodeV8 .palSetDmgBg c.op c.fields
  | 1 => decodeV8 .palSetDmgObj0 c.op c.fields
  | 2 => decodeV8 .palSetDmgObj1 c.op c.fields
  | 3 => decodeO6V8 .palWriteCgbBg c.op c.fields
  | 4 => decodeO6V8 .palWriteCgbObj c.op c.fields
  | 5 => decodeI3 .palBg c.op c.fields
  | 6 => decodeI3 .palObj c.op c.fields
  | 7 => decodeFetch c.op c.fields
  | 8 => decodePlot c.op c.fields
  | 9 => decodeNone .fbClear c.op c.fields
  | 10 => decodeNone .fbPresent c.op c.fields
  | 11 => decodeLY8 .draw c.op c.fields
  | 12 => decodeTile c.op c.fields
  | 13 => decodeLY8 .drawBg c.op c.fields
  | 14 => decodeLY8 .drawObj c.op c.fields
  | 15 => decodeLY8 .drawWin c.op c.fields
  | 16 => decodeN c.op c.fields
  | 17 => decodeNone .line c.op c.fields
  | 18 => decodeNone .reset c.op c.fields
  | 19 => decodeNone .palInit c.op c.fields
  | _ => .error (.unknownSelector c.op)

/-- The number a Boolean field carries. -/
def boolField (b : Bool) : Int := if b then 1 else 0

/-- The four numbers of a palette field. -/
def paletteFields (p : Palette) : List Int := [(p[0].toNat : Int), p[1].toNat, p[2].toNat, p[3].toNat]

/-- The command of an operation. -/
def encode : Instr → Command
  | .palSetDmgBg v => ⟨0, [(v.toNat : Int)]⟩
  | .palSetDmgObj0 v => ⟨1, [(v.toNat : Int)]⟩
  | .palSetDmgObj1 v => ⟨2, [(v.toNat : Int)]⟩
  | .palWriteCgbBg o v => ⟨3, [(o.toNat : Int), v.toNat]⟩
  | .palWriteCgbObj o v => ⟨4, [(o.toNat : Int), v.toNat]⟩
  | .palBg i => ⟨5, [(i.toNat : Int)]⟩
  | .palObj i => ⟨6, [(i.toNat : Int)]⟩
  | .tileFetchRow b t r fx fy => ⟨7, [(b.toNat : Int), t.toNat, r.toNat, boolField fx, boolField fy]⟩
  | .fbPlot x y q c => ⟨8, [(x.toNat : Int), y.toNat, q.toNat, c.toNat]⟩
  | .fbClear => ⟨9, []⟩
  | .fbPresent => ⟨10, []⟩
  | .draw ly => ⟨11, [(ly.toNat : Int)]⟩
  | .drawTile p b t fx fy sx sy ly base sprite =>
    ⟨12, paletteFields p ++
      [(b.toNat : Int), t.toNat, boolField fx, boolField fy, sx, sy, ly.toNat, base.toNat, boolField sprite]⟩
  | .drawBg ly => ⟨13, [(ly.toNat : Int)]⟩
  | .drawObj ly => ⟨14, [(ly.toNat : Int)]⟩
  | .drawWin ly => ⟨15, [(ly.toNat : Int)]⟩
  | .tick n => ⟨16, [(n : Int)]⟩
  | .line => ⟨17, []⟩
  | .reset => ⟨18, []⟩
  | .palInit => ⟨19, []⟩

/-- How many numbers the fields of a selector's format are (R102, R108). -/
def fieldCount (op : BitVec 5) : Nat :=
  match op.toNat with
  | 0 | 1 | 2 => 1
  | 3 | 4 => 2
  | 5 | 6 => 1
  | 7 => 5
  | 8 => 4
  | 11 => 1
  | 12 => 13
  | 13 | 14 | 15 | 16 => 1
  | _ => 0

/-- The command a table word stands for: its low five bits are the selector (mask 0x1F), every argument field,
to which the table gives no bits, is 0. Bits of the word above bit 4 are outside the table's mask and select
nothing. -/
def tableCommand (nbits w : Nat) : Command :=
  let op := BitVec.ofNat 5 (w % 2 ^ nbits)
  ⟨op, List.replicate (fieldCount op) 0⟩

/-- The operation the decoder reads from a table word. -/
def decodeTableWord (nbits w : Nat) : Option Instr :=
  match decode (tableCommand nbits w) with
  | .ok i => some i
  | .error _ => none

end Sys2Proof
end

