-- ==== Sys2Proof/Machine/Flags.lean ====
section
/-! DEFINITION. The bits of LCDC and STAT and every flag computation of the block (10_state.md R28 to R30,
30_encoding.md R90, R91, 44_timing_driver.md R193 to R198). -/

namespace Sys2Proof.Machine

/-! ### LCDC (R29, R90) -/

/-- `LCD_EN` -/
def lcdEnabled (lcdc : Byte) : Bool := lcdc.getLsbD 7
/-- `WIN_MAP` -/
def winMapBit (lcdc : Byte) : Bool := lcdc.getLsbD 6
/-- `WIN_EN` -/
def winEnabled (lcdc : Byte) : Bool := lcdc.getLsbD 5
/-- `TILE_SEL` -/
def tileSelBit (lcdc : Byte) : Bool := lcdc.getLsbD 4
/-- `BG_MAP` -/
def bgMapBit (lcdc : Byte) : Bool := lcdc.getLsbD 3
/-- `OBJ_SIZE` -/
def tallSprites (lcdc : Byte) : Bool := lcdc.getLsbD 2
/-- `OBJ_EN` -/
def objEnabled (lcdc : Byte) : Bool := lcdc.getLsbD 1
/-- `BG_EN` -/
def bgEnabled (lcdc : Byte) : Bool := lcdc.getLsbD 0

/-! ### STAT (R30, R91) -/

/-- `LYC_IE` -/
def lycIrqEnabled (stat : Byte) : Bool := stat.getLsbD 6
/-- `VBL_IE` -/
def vblankIrqEnabled (stat : Byte) : Bool := stat.getLsbD 4
/-- `HBL_IE` -/
def hblankIrqEnabled (stat : Byte) : Bool := stat.getLsbD 3

/-- `is_vblank`, "evaluated using the pre-increment LY" (R193). -/
def isVBlankLine (ly0 : Byte) : Bool := decide (144 ≤ ly0.toNat)

/-- `(LY + 1) mod 154` (R192). -/
def nextLy (ly0 : Byte) : Byte := BitVec.ofNat 8 ((ly0.toNat + 1) % 154)

/-- The mode write of step 7: `(STAT & 0xFC) | (vb ? 1 : 0)` (R195). -/
def withMode (stat : Byte) (vb : Bool) : Byte := (stat &&& 0xFC) ||| (if vb then 1 else 0)

/-- Whether `LINE` evaluates the coincidence, given that the LCD is enabled (R196). -/
def coincidenceEvaluated (stat : Byte) (vb : Bool) : Bool := !vb && lycIrqEnabled stat

/-- The coincidence write of step 8: set or clear `STAT[2]` (R196). -/
def withCoincidence (stat : Byte) (hit : Bool) : Byte := if hit then stat ||| 0x04 else stat &&& 0xFB

/-- `STAT` after the `LINE` of an enabled LCD: the mode bits, then the coincidence where it is evaluated
(R195, R196). -/
def statAfterLine (stat lyc ly1 : Byte) (vb : Bool) : Byte :=
  if coincidenceEvaluated stat vb then withCoincidence (withMode stat vb) (lyc == ly1) else withMode stat vb

end Sys2Proof.Machine
end

