-- ==== Sys2Proof/Config.lean ====
section
/-! DEFINITION. What is fixed for one instance of the block: the open parameters of 00_scope.md R6. They are plain
data that State carries and no operation changes, so every statement about every state holds for every value of
every parameter. The fixed parameters of R5 stand as literals in the rules that use them. -/

namespace Sys2Proof

/-- The hardware mode, `cartridge.mode` (R45). -/
inductive Mode
  | dmg | cgb
  deriving DecidableEq, Repr

/-- One entry of the compatibility table: a list of four shades for each of `bg`, `obj0`, `obj1` (R6, D11). -/
structure DmgEntry where
  bg : Palette
  obj0 : Palette
  obj1 : Palette
  deriving DecidableEq, Repr

/-- The parameters `ADDR_*` (R6, D2): the bus addresses of the eleven LCD registers, VRAM and OAM. The width of the
bus is not in the source (N1). -/
structure BusAddresses where
  lcdc : Nat
  stat : Nat
  scx : Nat
  scy : Nat
  wx : Nat
  wy : Nat
  ly : Nat
  lyc : Nat
  bgp : Nat
  obp0 : Nat
  obp1 : Nat
  vram : Nat
  oam : Nat
  deriving DecidableEq, Repr

/-- The parameters `IRQ_BIT_VBLANK` and `IRQ_BIT_LCDC` (R6, D24): bit positions in the host's interrupt-request
register. -/
structure IrqBits where
  vblank : Nat
  lcdc : Nat
  deriving DecidableEq, Repr

/-- The inputs and open parameters, constant from reset on (R6, R45, D20). -/
structure Config where
  /-- `mode` -/
  mode : Mode
  /-- `cartridge.checksum` -/
  checksum : Byte
  /-- `DMG_TABLE`, a function from a byte written as its 256 values (D11: open) -/
  dmgTable : Vector DmgEntry 256
  /-- `CGB_BG_RAM_FILL` (D13: 0x1F unless a model says otherwise) -/
  cgbBgRamFill : Byte
  /-- `OBJ_RAM_RESET` (D14: open) -/
  objRamReset : Vector Byte 64
  /-- `DISPLAY_ATTACHED` (D3: true unless a model says otherwise) -/
  displayAttached : Bool
  /-- `ADDR_*` (D2: open, "not needed by any rule"); what they name is in `State.readRegister` -/
  addresses : BusAddresses
  /-- `IRQ_BIT_*` (D24: open, "not needed by any rule"); what they name is in `State.requestBits` -/
  irqBits : IrqBits
  deriving DecidableEq, Repr

/-- `DMG_TABLE(checksum)`. -/
def Config.dmgEntry (c : Config) : DmgEntry := c.dmgTable[c.checksum.toNat]'c.checksum.isLt

/-- The four shades of the instance 95_test_vectors.md uses, "an arbitrary instance of the open parameter". -/
def exampleShades : Palette := #v[0xFFFFFF#24, 0xAAAAAA#24, 0x555555#24, 0x000000#24]

/-- Arbitrary addresses, all different: the registers from 0 on in the order of R20. DESIGN CHOICE (log 7). -/
def exampleAddresses : BusAddresses :=
  { lcdc := 0, stat := 1, scx := 2, scy := 3, wx := 4, wy := 5, ly := 6, lyc := 7, bgp := 8, obp0 := 9, obp1 := 10
    vram := 16384, oam := 32768 }

/-- Arbitrary bit positions, different from each other. DESIGN CHOICE (log 7). -/
def exampleIrqBits : IrqBits := ⟨2, 3⟩

/-- The instance `State.reset` names (log 5, log 7): the conventions of 95_test_vectors.md. DESIGN CHOICE. -/
def Config.standard : Config :=
  { mode := .dmg
    checksum := 0
    dmgTable := Vector.replicate 256 ⟨exampleShades, exampleShades, exampleShades⟩
    cgbBgRamFill := 0x1F
    objRamReset := Vector.replicate 64 0
    displayAttached := true
    addresses := exampleAddresses
    irqBits := exampleIrqBits }

end Sys2Proof
end

