-- ==== Sys2Proof/Machine/Memory.lean ====
section
/-! DEFINITION. A byte memory as plain data: a list of (address, byte) pairs in one canonical form. VRAM and OAM are
two such memories (10_state.md R37, R38). -/

namespace Sys2Proof.Machine

/-- The listed bytes of a memory. -/
abbrev Memory := List Host.Cell

/-- What an unlisted address reads as. DESIGN CHOICE (log 4): the spec leaves the contents at reset free (R256). -/
abbrev unlistedByte : Byte := 0

/-- `MemRead(m, a, 1)` (R8). -/
def Memory.read : Memory → Nat → Byte
  | [], _ => unlistedByte
  | (b, v) :: m, a => if a = b then v else Memory.read m a

/-- `MemWrite(m, a, 1, v)` (R8), keeping the canonical form: writing the unlisted byte removes the entry. -/
def Memory.write : Memory → Nat → Byte → Memory
  | [], a, v => if v = unlistedByte then [] else [(a, v)]
  | (b, w) :: m, a, v =>
    if a < b then if v = unlistedByte then (b, w) :: m else (a, v) :: (b, w) :: m
    else if a = b then if v = unlistedByte then m else (a, v) :: m
    else (b, w) :: Memory.write m a v

/-- The canonical form, for a memory of `size` bytes: addresses strictly rising and below `size`, and no entry equal
to what an unlisted address reads as. -/
abbrev Memory.wf (size : Nat) (m : Memory) : Prop :=
  List.Pairwise (fun c d : Host.Cell => c.1 < d.1) m ∧ ∀ c ∈ m, c.1 < size ∧ c.2 ≠ unlistedByte

/-- VRAM is `2 × 8192` bytes (R5, R37). -/
abbrev vramSize : Nat := 16384

/-- OAM is 160 bytes (R5, R38). -/
abbrev oamSize : Nat := 160

end Sys2Proof.Machine
end

