-- ==== Sys2Proof/Machine/Operands.lean ====
section
/-! DEFINITION. Operand assembly: colour expansion, palette slots, tile indices, map entries, OAM entries and
coordinates (30_encoding.md R90 to R107, 20_memory.md R60, R61, R69 to R72). -/

namespace Sys2Proof.Machine

/-! ### Colours -/

/-- `Expand5(c) = (c*255 + 15) / 31` (R107, R128). -/
def expand5 (c : BitVec 5) : Byte := BitVec.ofNat 8 ((c.toNat * 255 + 15) / 31)

/-- `Resolve555(w)`: red is `w[4:0]`, green `w[9:5]`, blue `w[14:10]`, `w[15]` is ignored (R97, R127). -/
def resolve555 (w : BitVec 16) : Color :=
  expand5 (w.extractLsb' 0 5) ++ expand5 (w.extractLsb' 5 5) ++ expand5 (w.extractLsb' 10 5)

/-- The colour of a palette that a colour index selects. -/
def paletteColor (p : Palette) (i : ColorIndex) : Color := p[i.toNat]'i.isLt

/-- Group `i` of a DMG palette byte: bits `2i+1..2i` (R101, D10). -/
def dmgGroup (value : Byte) (i : Fin 4) : ColorIndex := value.extractLsb' (2 * i) 2

/-- The four colours a DMG palette byte selects from a list of shades (R122). -/
def dmgPalette (shades : Palette) (value : Byte) : Palette :=
  Vector.ofFn fun i => paletteColor shades (dmgGroup value i)

/-- The little-endian word of colour slot `k` of a palette RAM (R60). -/
def ramWord (ram : Vector Byte 64) (k : Fin 32) : BitVec 16 := ram[2 * k.val + 1] ++ ram[2 * k.val]

/-- The slot a palette RAM offset belongs to, `offset / 2` (R60, R105). -/
def slotOf (offset : BitVec 6) : Fin 32 := ⟨offset.toNat / 2, by have := offset.isLt; omega⟩

/-! ### Tiles -/

/-- The tile index a map byte stands for: unsigned when `LCDC[4]` is set, else `256 + sext_8(n)` (R104). -/
def tileIndexOf (unsignedTiles : Bool) (n : Byte) : BitVec 9 :=
  if unsignedTiles then BitVec.ofNat 9 n.toNat else BitVec.ofInt 9 (256 + n.toInt)

/-- The flat VRAM offset of the low plane byte of a tile row (R69); the high plane byte follows it. -/
def tileRowAddr (bank : BitVec 1) (tileIndex : BitVec 9) (row : BitVec 3) : Nat :=
  bank.toNat * 8192 + tileIndex.toNat * 16 + row.toNat * 2

/-- The colour index of pixel `px` of a planar row: the high plane gives the more significant bit (R61, R140). -/
def planarPixel (lo hi : Byte) (flipX : Bool) (px : Fin 8) : ColorIndex :=
  let lx := if flipX then 7 - px.val else px.val
  let bit := 7 - lx
  BitVec.ofBool (hi.getLsbD bit) ++ BitVec.ofBool (lo.getLsbD bit)

/-- `TILE.FETCH_ROW` (R140): "pure function over VRAM". -/
def fetchRow (vram : Memory) (bank : BitVec 1) (tileIndex : BitVec 9) (row : BitVec 3) (flipX flipY : Bool) :
    PixelRow :=
  let r := if flipY then 7 - row else row
  let lo := vram.read (tileRowAddr bank tileIndex r)
  let hi := vram.read (tileRowAddr bank tileIndex r + 1)
  Vector.ofFn fun px => planarPixel lo hi flipX px

/-- What a caller of `DRAW.TILE` passes besides the line: the operands of R162. -/
structure TileDraw where
  pal : Palette
  bank : BitVec 1
  tileIndex : BitVec 9
  flipX : Bool
  flipY : Bool
  sx : Int
  sy : Int
  base : Tag
  sprite : Bool
  deriving DecidableEq, Repr

/-- The priority a pixel is plotted with: the base priority, or the background rule when the base is 0
(R151, R162). -/
def plotPriority (base : Tag) (idx : ColorIndex) : Tag :=
  if base = 0 then if idx = 0 then 1 else 3 else base

/-! ### Map entries -/

/-- The bank-relative offset of the tile map a select bit chooses (R90). -/
def mapOffset (select : Bool) : Nat := if select then 0x1C00 else 0x1800

/-- The flat VRAM offset of map entry (`ty`, `tx`) (R70). -/
def mapAddr (offset ty tx : Nat) : Nat := offset + ty * 32 + tx

/-- What a map position stands for (R163). -/
structure MapTile where
  tileIndex : BitVec 9
  pal : Palette
  bank : BitVec 1
  flipX : Bool
  flipY : Bool
  deriving DecidableEq, Repr

/-- The attribute byte of a map position: from VRAM bank 1 in CGB mode, the constant 0 in DMG mode (R94, R163). -/
def mapAttr (mode : Mode) (vram : Memory) (addr : Nat) : Byte :=
  match mode with
  | .cgb => vram.read (8192 + addr)
  | .dmg => 0

/-- `MapEntry(map_offset, ty, tx)` (R163); attribute fields by format R94. -/
def mapEntry (mode : Mode) (vram : Memory) (bg : Vector Palette 8) (unsignedTiles : Bool) (offset ty tx : Nat) :
    MapTile :=
  let a := mapAddr offset ty tx
  let attr := mapAttr mode vram a
  { tileIndex := tileIndexOf unsignedTiles (vram.read a)
    pal := bg[(attr.extractLsb' 0 3).toNat]'(attr.extractLsb' 0 3).isLt
    bank := attr.extractLsb' 3 1
    flipX := attr.getLsbD 5
    flipY := attr.getLsbD 6 }

/-! ### OAM entries -/

/-- The four bytes of an OAM entry (R92). -/
structure OamEntry where
  y : Byte
  x : Byte
  tile : Byte
  attr : Byte
  deriving DecidableEq, Repr

/-- Entry `e` of OAM, at offsets `4e` to `4e+3` (R72, R92). -/
def oamEntry (oam : Memory) (e : Nat) : OamEntry :=
  { y := oam.read (4 * e), x := oam.read (4 * e + 1), tile := oam.read (4 * e + 2), attr := oam.read (4 * e + 3) }

/-- Sprite height: 16 in tall mode, else 8 (R171). -/
def spriteHeight (tall : Bool) : Nat := if tall then 16 else 8

/-- "sprite covers screen rows `[y-16, y-16+h)`", on unbounded integers (R167). -/
def spriteVisible (tall : Bool) (o : OamEntry) (ly : Fin 144) : Bool :=
  decide ((o.y.toNat : Int) - 16 ≤ ly.val ∧ (ly.val : Int) < (o.y.toNat : Int) - 16 + spriteHeight tall)

/-- The palette a sprite selects: CGB `obj[attr[2:0]]`, DMG `obj[attr[4]]` (R93, R173). -/
def spritePalette (mode : Mode) (obj : Vector Palette 8) (attr : Byte) : Palette :=
  match mode with
  | .cgb => obj[(attr.extractLsb' 0 3).toNat]'(attr.extractLsb' 0 3).isLt
  | .dmg => if attr.getLsbD 4 then obj[1] else obj[0]

/-- The VRAM bank a sprite selects: CGB `attr[3]`, DMG 0 (R93, R173). -/
def spriteBank (mode : Mode) (attr : Byte) : BitVec 1 :=
  match mode with
  | .cgb => attr.extractLsb' 3 1
  | .dmg => 0

/-- "Base priority `P2` if `bg_over_obj`, else `P5`" (R169). -/
def spriteBase (attr : Byte) : Tag := if attr.getLsbD 7 then 2 else 5

/-- `tile & 0xFE` or `tile | 0x01`: the tile a tall sprite shows on a line, `flip_y` swapping the halves (R171). -/
def tallTile (tile : Byte) (flipY lineInTop : Bool) : Byte :=
  if lineInTop == flipY then tile ||| 0x01 else tile &&& 0xFE

/-- The tile a sprite shows on line `ly` and where it is placed (R166, R171, R174). -/
def spriteTile (mode : Mode) (obj : Vector Palette 8) (tall : Bool) (o : OamEntry) (ly : Fin 144) : TileDraw :=
  let flipY := o.attr.getLsbD 6
  let lineInTop := decide ((ly.val : Int) < (o.y.toNat : Int) - 8)
  { pal := spritePalette mode obj o.attr
    bank := spriteBank mode o.attr
    tileIndex := BitVec.ofNat 9 (if tall then tallTile o.tile flipY lineInTop else o.tile).toNat
    flipX := o.attr.getLsbD 5
    flipY := flipY
    sx := (o.x.toNat : Int) - 8
    sy := if tall && !lineInTop then (o.y.toNat : Int) - 8 else (o.y.toNat : Int) - 16
    base := spriteBase o.attr
    sprite := true }

end Sys2Proof.Machine
end

