-- ==== Sys2Proof/Machine/Frame.lean ====
section
/-! DEFINITION. The framebuffer: cells, plotting with priority arbitration, clearing, the row-major payload, and the
drawing of one tile row (42_framebuffer.md, 43_compositor.md R162). -/

namespace Sys2Proof.Machine

/-- 144 rows of 160 cells: `frame[y][x]` is the spec's `fb[x, y]` (R39). -/
abbrev Frame := Vector (Vector Cell 160) 144

/-- The priority tag of a cell, bits 31..24 (R99). -/
def cellTag (c : Cell) : Byte := c.extractLsb' 24 8

/-- The colour of a cell, bits 23..0, which is all the display may use (R99, R153). -/
def cellRgb (c : Cell) : Color := c.extractLsb' 0 24

/-- `(q << 24) | c` (R150). -/
def mkCell (q : Tag) (c : Color) : Cell := (q.setWidth 32 <<< 24) ||| c.setWidth 32

/-- What a plot leaves in a cell: written "only when the incoming priority is ≥ the stored cell's priority tag"
(R150, D6). -/
def plotCell (old : Cell) (q : Tag) (c : Color) : Cell :=
  if (cellTag old).toNat ≤ q.toNat then mkCell q c else old

/-- `fb[x, y]`. -/
def Frame.get (f : Frame) (x : Fin 160) (y : Fin 144) : Cell := f[y][x]

/-- `fb[x, y] <- c`. -/
def Frame.put (f : Frame) (x : Fin 160) (y : Fin 144) (c : Cell) : Frame := f.set y (f[y].set x c)

/-- `FB.PLOT` (R150). -/
def Frame.plot (f : Frame) (x : Fin 160) (y : Fin 144) (q : Tag) (c : Color) : Frame :=
  f.put x y (plotCell (f.get x y) q c)

/-- What `FB.CLEAR` leaves: every cell 0 (R152). -/
def Frame.cleared : Frame := Vector.replicate 144 (Vector.replicate 160 0)

/-- The payload of `PRESENT`: all 23040 cells in row-major order (R71, R153, D22). -/
def Frame.cells (f : Frame) : List Cell := f.toList.flatMap (fun row => row.toList)

/-- A cell "handed out as bytes", lowest address first: "blue, then green, then red, then the tag byte" (R62). -/
def cellBytes (c : Cell) : List Byte :=
  [c.extractLsb' 0 8, c.extractLsb' 8 8, c.extractLsb' 16 8, c.extractLsb' 24 8]

/-- The payload of `PRESENT` handed out as bytes, four a cell, lowest address first (R62, R71). -/
def payloadBytes (cells : List Cell) : List Byte := cells.flatMap cellBytes

/-- The eight pixel columns of a tile, left to right (R162). -/
def tileColumns : List (Fin 8) := [0, 1, 2, 3, 4, 5, 6, 7]

/-- One turn of the loop of `DRAW.TILE`: clip, skip a transparent sprite pixel, plot (R162, R168). -/
def Frame.drawPixel (t : TileDraw) (pix : PixelRow) (ly : Fin 144) (f : Frame) (px : Fin 8) : Frame :=
  if h : 0 ≤ t.sx + px.val ∧ t.sx + px.val < 160 then
    if t.sprite && pix[px] == 0 then f
    else f.plot ⟨(t.sx + px.val).toNat, by omega⟩ ly (plotPriority t.base pix[px]) (paletteColor t.pal pix[px])
  else f

/-- `DRAW.TILE`: row `ly - sy` of the tile, or nothing when that is outside 0..7 (R162). -/
def Frame.drawTile (vram : Memory) (t : TileDraw) (ly : Fin 144) (f : Frame) : Frame :=
  let row := (ly.val : Int) - t.sy
  if 0 ≤ row ∧ row ≤ 7 then
    tileColumns.foldl
      (Frame.drawPixel t (fetchRow vram t.bank t.tileIndex (BitVec.ofInt 3 row) t.flipX t.flipY) ly) f
  else f

end Sys2Proof.Machine
end

