-- ==== Sys2Proof/Machine/Palette.lean ====
section
/-! DEFINITION. The palette store and its operations as functions of the store alone (40_palette_store.md). -/

namespace Sys2Proof.Machine

/-- Resolved palettes and the two CGB palette RAMs (R31, R33). -/
structure PaletteStore where
  bg : Vector Palette 8
  obj : Vector Palette 8
  bgRam : Vector Byte 64
  objRam : Vector Byte 64
  deriving DecidableEq, Repr

/-- Every colour and every byte 0: what the store holds before the block's start writes it. DESIGN CHOICE (log 3). -/
def PaletteStore.blank : PaletteStore :=
  { bg := Vector.replicate 8 (Vector.replicate 4 0)
    obj := Vector.replicate 8 (Vector.replicate 4 0)
    bgRam := Vector.replicate 64 0
    objRam := Vector.replicate 64 0 }

/-- Colour `j` of palette `i` replaced. -/
def setColor (pals : Vector Palette 8) (i : Fin 8) (j : Fin 4) (c : Color) : Vector Palette 8 :=
  pals.set i (pals[i].set j c)

/-- The colour slot `k` is colour `k % 4` of palette `k / 4` (R105, R125). -/
def setSlot (pals : Vector Palette 8) (k : Fin 32) (c : Color) : Vector Palette 8 :=
  setColor pals ⟨k.val / 4, by omega⟩ ⟨k.val % 4, by omega⟩ c

/-- All palettes a palette RAM gives (R34, R121). -/
def resolveRam (ram : Vector Byte 64) : Vector Palette 8 :=
  Vector.ofFn fun i => Vector.ofFn fun j => resolve555 (ramWord ram ⟨4 * i.val + j.val, by omega⟩)

/-- The background half of a CGB write: store the byte, then recompute the colour of its slot (R125). -/
def PaletteStore.writeBg (p : PaletteStore) (offset : BitVec 6) (value : Byte) : PaletteStore :=
  let ram := p.bgRam.set offset.toNat value offset.isLt
  { p with bgRam := ram, bg := setSlot p.bg (slotOf offset) (resolve555 (ramWord ram (slotOf offset))) }

/-- The object half of a CGB write (R126). -/
def PaletteStore.writeObj (p : PaletteStore) (offset : BitVec 6) (value : Byte) : PaletteStore :=
  let ram := p.objRam.set offset.toNat value offset.isLt
  { p with objRam := ram, obj := setSlot p.obj (slotOf offset) (resolve555 (ramWord ram (slotOf offset))) }

/-- `PAL.INIT` (R121). In DMG mode exactly three palettes are written. -/
def PaletteStore.init (c : Config) (p : PaletteStore) : PaletteStore :=
  match c.mode with
  | .cgb =>
    { bgRam := Vector.replicate 64 c.cgbBgRamFill
      objRam := c.objRamReset
      bg := resolveRam (Vector.replicate 64 c.cgbBgRamFill)
      obj := resolveRam c.objRamReset }
  | .dmg =>
    { p with
      bg := p.bg.set 0 c.dmgEntry.bg
      obj := (p.obj.set 0 c.dmgEntry.obj0).set 1 c.dmgEntry.obj1 }

end Sys2Proof.Machine
end

