-- ==== Sys2Proof/Machine/State.lean ====
section
/-! DEFINITION. The state of the block and what it reads and writes of the host's (10_state.md), as plain data; the
outputs; the host's steps; the reasons to stop; the state after reset. -/

namespace Sys2Proof.Machine

/-- The names of the eleven LCD registers (R20). -/
inductive LcdReg
  | lcdc | stat | scx | scy | wx | wy | ly | lyc | bgp | obp0 | obp1
  deriving DecidableEq, Repr

/-- The eleven LCD registers (R20), borrowed from the host. -/
structure LcdRegs where
  lcdc : Byte
  stat : Byte
  scx : Byte
  scy : Byte
  wx : Byte
  wy : Byte
  ly : Byte
  lyc : Byte
  bgp : Byte
  obp0 : Byte
  obp1 : Byte
  deriving DecidableEq, Repr

/-- The two interrupt request outputs, `kind ∈ {VBlank, LCDC}` (R225). -/
inductive Irq
  | vblank | lcdc
  deriving DecidableEq, Repr

/-- The two request bits of the host's interrupt-request register, which a raise sets (R226). -/
structure Requests where
  vblank : Bool
  lcdc : Bool
  deriving DecidableEq, Repr

/-- What the outside can observe of a step, in the order it happens (R12, R75, R103). The first three are the
block's output events; `palette` and `tileRow` are the values `PAL.BG`, `PAL.OBJ` and `TILE.FETCH_ROW` return;
`hostRead` is the byte a host read got. -/
inductive Event
  /-- `raise VBlank`, `raise LCDC` -/
  | raised (k : Irq)
  /-- `pulse HDMA_TICK` -/
  | hdmaTick
  /-- `PRESENT`, with the 23040 cells in row-major order (R153); as bytes they are `payloadBytes cells` (R62) -/
  | present (cells : List Cell)
  /-- what `PAL.BG` or `PAL.OBJ` returns (R129, R130) -/
  | palette (p : Palette)
  /-- what `TILE.FETCH_ROW` returns (R140) -/
  | tileRow (pix : PixelRow)
  /-- what a host read returns (R73) -/
  | hostRead (v : Byte)
  deriving DecidableEq, Repr

/-- One step of the host: its liberties of R82, and its reads (R10 (b)). -/
inductive HostStep
  /-- `REG name <- v` (R113) -/
  | writeReg (r : LcdReg) (v : Byte)
  /-- `VRAM[a] <- v` (R113) -/
  | writeVram (a : Nat) (v : Byte)
  /-- `OAM[a] <- v` (R113) -/
  | writeOam (a : Nat) (v : Byte)
  /-- `HDMA on | off` (R113) -/
  | setHdma (active : Bool)
  /-- consume and clear an interrupt request (R82) -/
  | clearRequest (k : Irq)
  /-- read a register -/
  | readReg (r : LcdReg)
  /-- read a VRAM byte -/
  | readVram (a : Nat)
  /-- read an OAM byte -/
  | readOam (a : Nat)
  deriving DecidableEq, Repr

/-- What the host does next: one line of a trace (R113). -/
inductive Request
  /-- an operation of the block -/
  | command (c : Command)
  /-- a step of the host itself -/
  | host (h : HostStep)
  deriving DecidableEq, Repr

/-- Why the machine stops with a fault. "The block has no `fault` and no `stuck` outcome anywhere"
(93_implementation_defined.md); the one fault is the host's. -/
inductive Fault
  /-- Raised by a host access to a VRAM offset above 16383, which does not exist (R37). Safe (log 8). -/
  | noSuchVramByte (a : Nat)
  /-- Raised by a host access to an OAM offset above 159, which does not exist (R38). Safe (log 8). -/
  | noSuchOamByte (a : Nat)
  deriving DecidableEq, Repr

/-- Why the machine refuses an operation. -/
inductive Refusal
  /-- Raised by an arm of `exec` that has no meaning yet; there is none. Safe. -/
  | notModelled (mnemonic : String)
  /-- Raised by `step` when a command decodes to no operation (R110, U2). Safe: the spec gives it no meaning. -/
  | undecodable (e : DecodeError)
  /-- Raised by an operation with an argument outside its stated domain (R11, R110, U2). Safe: "the operation has
  no meaning and a model refuses it". -/
  | outOfDomain (f : Field)
  /-- Raised by a DMG-path operation in CGB mode and by a CGB-path operation in DMG mode; carries the mode the
  operation needs (R120, U5, D31). Safe: "a model refuses them". -/
  | wrongMode (needed : Mode)
  deriving DecidableEq, Repr

/-- The machine. `pending` is the model's own field: what the host will do next, first entry next. -/
structure State where
  /-- inputs and open parameters, constant from reset on (R6, R45) -/
  config : Config
  /-- the eleven LCD registers (R20) -/
  regs : LcdRegs
  /-- the palette store (R31 to R35) -/
  pal : PaletteStore
  /-- `sprites_drawn[0..143]` (R36) -/
  spritesDrawn : Vector Nat 144
  /-- VRAM, bank 0 then bank 1 (R37) -/
  vram : Memory
  /-- OAM (R38) -/
  oam : Memory
  /-- the framebuffer (R39) -/
  frame : Frame
  /-- `lcd_cycles` (R41) -/
  lcdCycles : Nat
  /-- `vblank_count` (R42) -/
  vblankCount : Nat
  /-- the input `hdma_active`, which the host may change between operations (R45, D21) -/
  hdmaActive : Bool
  /-- the request bits raised and not yet consumed (R226) -/
  requests : Requests
  /-- the outputs so far, oldest first (R12) -/
  events : List Event
  /-- what the host does next (R113; log 1) -/
  pending : List Request
  deriving DecidableEq, Repr

/-- Every register 0: the values `State.reset` names for the registers the spec leaves free (log 2). -/
def LcdRegs.zero : LcdRegs := ⟨0, 0, 0, 0, 0, 0, 0, 0, 0, 0, 0⟩

/-- The state after reset for any parameters (`c`), any register contents before reset (`REG_RESET`), and any
contents of VRAM and OAM: `LY = 0`, `STAT.MODE = 0`, the palette store initialised, everything else of the block 0
(R250 to R256). -/
def State.resetWith (c : Config) (regs : LcdRegs) (vram oam : Memory) : State :=
  { config := c
    regs := { regs with ly := 0, stat := regs.stat &&& 0xFC }
    pal := PaletteStore.init c PaletteStore.blank
    spritesDrawn := Vector.replicate 144 0
    vram := vram
    oam := oam
    frame := Frame.cleared
    lcdCycles := 0
    vblankCount := 0
    hdmaActive := false
    requests := ⟨false, false⟩
    events := []
    pending := [] }

/-- The machine right after reset, for the instance of the open parameters that log 2 to 7 name. -/
def State.reset : State := State.resetWith Config.standard LcdRegs.zero [] []

end Sys2Proof.Machine
end

