-- ==== Sys2Proof/Machine/Ops.lean ====
section
/-! DEFINITION. The named operations over the state that the meanings share: registers, outputs, interrupt requests,
the drawing passes, the host's steps. -/

namespace Sys2Proof.Machine

/-- The answer of an operation or a host step. -/
abbrev Answer := Host.Outcome State Fault Refusal

/-! ### Registers (R8, R20) -/

/-- `read_register`. -/
def LcdRegs.get (g : LcdRegs) : LcdReg → Byte
  | .lcdc => g.lcdc
  | .stat => g.stat
  | .scx => g.scx
  | .scy => g.scy
  | .wx => g.wx
  | .wy => g.wy
  | .ly => g.ly
  | .lyc => g.lyc
  | .bgp => g.bgp
  | .obp0 => g.obp0
  | .obp1 => g.obp1

/-- `write_register`. -/
def LcdRegs.set (g : LcdRegs) (r : LcdReg) (v : Byte) : LcdRegs :=
  match r with
  | .lcdc => { g with lcdc := v }
  | .stat => { g with stat := v }
  | .scx => { g with scx := v }
  | .scy => { g with scy := v }
  | .wx => { g with wx := v }
  | .wy => { g with wy := v }
  | .ly => { g with ly := v }
  | .lyc => { g with lyc := v }
  | .bgp => { g with bgp := v }
  | .obp0 => { g with obp0 := v }
  | .obp1 => { g with obp1 := v }

/-- `reg[r] <- v`. -/
def State.setReg (s : State) (r : LcdReg) (v : Byte) : State := { s with regs := s.regs.set r v }

/-! ### The registers by bus address (R6, R8) -/

/-- `ADDR_r`: the bus address of a register. -/
def registerAddress (a : BusAddresses) : LcdReg → Nat
  | .lcdc => a.lcdc
  | .stat => a.stat
  | .scx => a.scx
  | .scy => a.scy
  | .wx => a.wx
  | .wy => a.wy
  | .ly => a.ly
  | .lyc => a.lyc
  | .bgp => a.bgp
  | .obp0 => a.obp0
  | .obp1 => a.obp1

/-- The eleven registers, in the order of R20. -/
def lcdRegList : List LcdReg := [.lcdc, .stat, .scx, .scy, .wx, .wy, .ly, .lyc, .bgp, .obp0, .obp1]

/-- The register at a bus address, if there is one. -/
def State.regAt (s : State) (addr : Nat) : Option LcdReg :=
  lcdRegList.find? fun r => registerAddress s.config.addresses r == addr

/-- `read_register(addr)` with a bus address: "invalid register reads are treated as zero" (R8). The rules name
registers, not addresses (N1), so no operation uses it. -/
def State.readRegister (s : State) (addr : Nat) : Byte :=
  match s.regAt addr with
  | some r => s.regs.get r
  | none => 0

/-! ### Outputs and interrupt requests -/

/-- Record an output. -/
def State.emit (s : State) (e : Event) : State := { s with events := s.events ++ [e] }

/-- Record an output when a condition holds. -/
def State.emitIf (s : State) (b : Bool) (e : Event) : State := if b then s.emit e else s

/-- Set one request bit; "setting a set bit changes nothing" (R226). -/
def Requests.set (q : Requests) : Irq → Requests
  | .vblank => { q with vblank := true }
  | .lcdc => { q with lcdc := true }

/-- Clear one request bit, which only the host does (R226, R82). -/
def Requests.clear (q : Requests) : Irq → Requests
  | .vblank => { q with vblank := false }
  | .lcdc => { q with lcdc := false }

/-- One request bit. -/
def Requests.get (q : Requests) : Irq → Bool
  | .vblank => q.vblank
  | .lcdc => q.lcdc

/-- `IRQ_BIT_K`: the position of a request bit in the host's interrupt-request register. -/
def irqPosition (b : IrqBits) : Irq → Nat
  | .vblank => b.vblank
  | .lcdc => b.lcdc

/-- The block's part of the host's interrupt-request register: a one at the position of each request that is set
(R6, R226). No operation reads it: "The block never clears a request and never reads the request register". -/
def State.requestBits (s : State) : Nat :=
  (if s.requests.vblank then 2 ^ s.config.irqBits.vblank else 0) |||
    (if s.requests.lcdc then 2 ^ s.config.irqBits.lcdc else 0)

/-- `raise K`: the block's only signal to the CPU and all there is of an exception entry on the block's side. It sets
the request bit and is an output event; it "saves nothing, switches no mode, masks nothing" (R225, R226, R232). There
is no return operation: "The block has no return instruction and nothing to restore" (R233). -/
def State.raise (s : State) (k : Irq) : State := { s.emit (.raised k) with requests := s.requests.set k }

/-- `raise K` when a condition holds. -/
def State.raiseIf (s : State) (b : Bool) (k : Irq) : State := if b then s.raise k else s

/-- `FB.PRESENT`: the payload goes out when a display is attached (R153, R223). -/
def State.present (s : State) : State := s.emitIf s.config.displayAttached (.present s.frame.cells)

/-! ### The drawing passes (43_compositor.md) -/

/-- The map entry a background or window pass reads (R163). -/
def State.mapTile (s : State) (offset ty tx : Nat) : MapTile :=
  mapEntry s.config.mode s.vram s.pal.bg (tileSelBit s.regs.lcdc) offset ty tx

/-- A map tile placed on the screen. -/
def MapTile.place (m : MapTile) (sx sy : Int) (base : Tag) : TileDraw :=
  { pal := m.pal, bank := m.bank, tileIndex := m.tileIndex, flipX := m.flipX, flipY := m.flipY
    sx := sx, sy := sy, base := base, sprite := false }

/-- The tile of column `x` of the background pass (R164). -/
def State.bgTile (s : State) (ly : Fin 144) (x : Nat) : TileDraw :=
  let row := ly.val + s.regs.scy.toNat
  (s.mapTile (mapOffset (bgMapBit s.regs.lcdc)) (row / 8 % 32) ((x + s.regs.scx.toNat / 8) % 32)).place
    ((x : Int) * 8 - (s.regs.scx.toNat % 8 : Nat)) ((ly.val : Int) - (row % 8 : Nat)) 0

/-- `DRAW.BG`: 21 columns (R164). -/
def State.drawBgLine (s : State) (ly : Fin 144) : State :=
  { s with frame := (List.range 21).foldl (fun f x => f.drawTile s.vram (s.bgTile ly x) ly) s.frame }

/-- The tile a sprite shows on a line (R166). -/
def State.spriteTileAt (s : State) (o : OamEntry) (ly : Fin 144) : TileDraw :=
  spriteTile s.config.mode s.pal.obj (tallSprites s.regs.lcdc) o ly

/-- The loop of `DRAW.OBJ` over the OAM entries `es`, from framebuffer `f` and counter `n`: stop at ten, skip an
entry that is not on the line, else draw it and count it (R166, R167, R170). -/
def State.drawSprites (s : State) (ly : Fin 144) : List Nat → Frame → Nat → Frame × Nat
  | [], f, n => (f, n)
  | e :: es, f, n =>
    if n = 10 then (f, n)
    else if spriteVisible (tallSprites s.regs.lcdc) (oamEntry s.oam e) ly then
      s.drawSprites ly es (f.drawTile s.vram (s.spriteTileAt (oamEntry s.oam e) ly) ly) (n + 1)
    else s.drawSprites ly es f n

/-- `DRAW.OBJ` (R166). -/
def State.drawObjLine (s : State) (ly : Fin 144) : State :=
  let r := s.drawSprites ly (List.range 40) s.frame s.spritesDrawn[ly]
  { s with frame := r.1, spritesDrawn := s.spritesDrawn.set ly r.2 }

/-- The window's left edge, `WX - 7` (R106, R180). -/
def windowLeft (wx : Byte) : Int := (wx.toNat : Int) - 7

/-- The first window column drawn, `wx / 8` truncated toward zero (R180, D9). -/
def windowFirstColumn (wx : Byte) : Nat := ((windowLeft wx).tdiv 8).toNat

/-- The position test of the window (R180). -/
def windowOnLine (wx wy : Byte) (ly : Fin 144) : Bool := decide (wy.toNat ≤ ly.val ∧ windowLeft wx < 160)

/-- The tile of column `x` of the window pass: "map column `x` is drawn at screen column `wx + 8x`" (R180, R182). -/
def State.winTile (s : State) (ly : Fin 144) (x : Nat) : TileDraw :=
  let y := (ly.val - s.regs.wy.toNat) / 8
  (s.mapTile (mapOffset (winMapBit s.regs.lcdc)) y x).place
    (windowLeft s.regs.wx + (x : Int) * 8) ((s.regs.wy.toNat + y * 8 : Nat) : Int) 6

/-- `DRAW.WIN` (R180). -/
def State.drawWinLine (s : State) (ly : Fin 144) : State :=
  if windowOnLine s.regs.wx s.regs.wy ly then
    let first := windowFirstColumn s.regs.wx
    { s with
      frame := (List.range' first (21 - first)).foldl (fun f x => f.drawTile s.vram (s.winTile ly x) ly) s.frame }
  else s

/-- `DRAW` on a visible line: clear on line 0, zero the counter, then background, sprites, window (R160, R161). -/
def State.drawLine (s : State) (ly : Fin 144) : State :=
  let lcdc := s.regs.lcdc
  let s := if ly = 0 then { s with frame := Frame.cleared } else s
  let s := { s with spritesDrawn := s.spritesDrawn.set ly 0 }
  let s := if bgEnabled lcdc then s.drawBgLine ly else s
  let s := if objEnabled lcdc then s.drawObjLine ly else s
  if winEnabled lcdc then s.drawWinLine ly else s

/-- Run a pass on a line given as a byte; "values 144..255 make the operation a no-op" (spec/opcode_table.json, R160). -/
def State.onLine (s : State) (ly : Byte) (pass : State → Fin 144 → State) : State :=
  if h : ly.toNat < 144 then pass s ⟨ly.toNat, h⟩ else s

/-! ### The line boundary (44_timing_driver.md) -/

/-- Steps 7 and 8 of `LINE` with the LCD enabled: the mode, then the coincidence and its request, then the HBlank
request (R195, R196, R198). -/
def State.updateStat (s : State) (ly1 : Byte) (vb : Bool) : State :=
  let stat := s.regs.stat
  let s := s.setReg .stat (statAfterLine stat s.regs.lyc ly1 vb)
  let s := s.raiseIf (coincidenceEvaluated stat vb && s.regs.lyc == ly1) .lcdc
  s.raiseIf (!vb && hblankIrqEnabled stat) .lcdc

/-- Step 9 of `LINE` after the last visible line (R199). -/
def State.endFrame (s : State) (en : Bool) : State :=
  let s := s.present
  let s := { s with vblankCount := s.vblankCount + 1 }
  let s := s.raiseIf en .vblank
  s.raiseIf (en && vblankIrqEnabled s.regs.stat) .lcdc

/-- `LINE` (R200). -/
def State.line (s : State) : State :=
  let ly0 := s.regs.ly
  let en := lcdEnabled s.regs.lcdc
  let vb := isVBlankLine ly0
  let s := if en then s.onLine ly0 State.drawLine else s
  let s := s.setReg .ly (nextLy ly0)
  let s := s.emitIf (!vb && s.hdmaActive) .hdmaTick
  let s := if en then s.updateStat (nextLy ly0) vb else s
  if ly0 = 143 then s.endFrame en else s

/-- The `while` loop of `TICK`: as long as 456 cycles have accumulated, subtract them and run one `LINE`. `fuel`
bounds the turns (R190). -/
def State.tickLoop : Nat → State → State
  | 0, s => s
  | fuel + 1, s =>
    if 456 ≤ s.lcdCycles then
      State.tickLoop fuel (State.line { s with lcdCycles := s.lcdCycles - 456 })
    else s

/-- `TICK n` (R190): each turn of the loop takes 456 cycles, so `lcd_cycles / 456` turns are enough. -/
def State.tick (s : State) (n : Nat) : State :=
  State.tickLoop ((s.lcdCycles + n) / 456) { s with lcdCycles := s.lcdCycles + n }

/-! ### Reset (R250) -/

/-- `RESET`. No request, pulse or presentation; registers other than `LY` and `STAT[1:0]`, VRAM, OAM, the inputs and
the host's list keep their values. -/
def State.restart (s : State) : State :=
  { s with
    pal := PaletteStore.init s.config s.pal
    frame := Frame.cleared
    spritesDrawn := Vector.replicate 144 0
    lcdCycles := 0
    vblankCount := 0
    regs := { s.regs with ly := 0, stat := s.regs.stat &&& 0xFC } }

/-! ### The host's steps (R82) -/

/-- One step of the host. A VRAM or OAM access outside the memory does not exist and faults. -/
def State.hostStep (s : State) : HostStep → Answer
  | .writeReg r v => .next (s.setReg r v)
  | .writeVram a v => if a < vramSize then .next { s with vram := s.vram.write a v } else .fault (.noSuchVramByte a)
  | .writeOam a v => if a < oamSize then .next { s with oam := s.oam.write a v } else .fault (.noSuchOamByte a)
  | .setHdma b => .next { s with hdmaActive := b }
  | .clearRequest k => .next { s with requests := s.requests.clear k }
  | .readReg r => .next (s.emit (.hostRead (s.regs.get r)))
  | .readVram a => if a < vramSize then .next (s.emit (.hostRead (s.vram.read a))) else .fault (.noSuchVramByte a)
  | .readOam a => if a < oamSize then .next (s.emit (.hostRead (s.oam.read a))) else .fault (.noSuchOamByte a)

/-- What the machine does next: the first entry of the host's list, and the state with that entry taken off. -/
def State.fetch (s : State) : Option (Request × State) :=
  match s.pending with
  | [] => none
  | r :: rest => some (r, { s with pending := rest })

end Sys2Proof.Machine
end

