-- ==== Sys2Proof/Machine/CompositorMeanings.lean ====
section
/-! DEFINITION. The meanings of the scanline compositor's operations (43_compositor.md). -/

namespace Sys2Proof.Machine

/-- `DRAW ly` (R160): a "silent no-op" above line 143; it does not test `LCDC[7]` (D23). -/
def execDraw (ly : Byte) (s : State) : Answer := .next (s.onLine ly State.drawLine)

/-- `DRAW.TILE` (R162); a tile index, line or base priority outside its domain has no meaning (R110, U2). -/
def execDrawTile (pal : Palette) (bank : BitVec 1) (tileIndex : BitVec 9) (flipX flipY : Bool) (sx sy : Int)
    (ly : Byte) (base : Tag) (sprite : Bool) (s : State) : Answer :=
  if tileIndexOk tileIndex then
    if hy : ly.toNat < 144 then
      if baseTagOk base then
        .next { s with
          frame := s.frame.drawTile s.vram ⟨pal, bank, tileIndex, flipX, flipY, sx, sy, base, sprite⟩ ⟨ly.toNat, hy⟩ }
      else .refused (.outOfDomain .base)
    else .refused (.outOfDomain .ly)
  else .refused (.outOfDomain .tileIndex)

/-- `DRAW.BG ly` (R164). -/
def execDrawBg (ly : Byte) (s : State) : Answer := .next (s.onLine ly State.drawBgLine)

/-- `DRAW.OBJ ly` (R166). -/
def execDrawObj (ly : Byte) (s : State) : Answer := .next (s.onLine ly State.drawObjLine)

/-- `DRAW.WIN ly` (R180). -/
def execDrawWin (ly : Byte) (s : State) : Answer := .next (s.onLine ly State.drawWinLine)

end Sys2Proof.Machine
end

