-- ==== Sys2Proof/Machine/FramebufferMeanings.lean ====
section
/-! DEFINITION. The meanings of the framebuffer operations (42_framebuffer.md). -/

namespace Sys2Proof.Machine

/-- `FB.PLOT x, y, q, c` (R150); a column, row or priority outside its domain has no meaning (R110, U2; log 10). -/
def execFbPlot (x y : Byte) (q : Tag) (c : Color) (s : State) : Answer :=
  if hx : x.toNat < 160 then
    if hy : y.toNat < 144 then
      if plotTagOk q then .next { s with frame := s.frame.plot ⟨x.toNat, hx⟩ ⟨y.toNat, hy⟩ q c }
      else .refused (.outOfDomain .q)
    else .refused (.outOfDomain .y)
  else .refused (.outOfDomain .x)

/-- `FB.CLEAR` (R152). -/
def execFbClear (s : State) : Answer := .next { s with frame := Frame.cleared }

/-- `FB.PRESENT` (R153): "Changes no state of the block." -/
def execFbPresent (s : State) : Answer := .next s.present

end Sys2Proof.Machine
end

