-- ==== Sys2Proof/Machine/PaletteMeanings.lean ====
section
/-! DEFINITION. The meanings of the palette store operations (40_palette_store.md). -/

namespace Sys2Proof.Machine

/-- An operation of one palette path: in the other hardware mode the spec gives it no meaning and "a model refuses"
it (R120, D31). -/
def State.inMode (s : State) (needed : Mode) (next : State) : Answer :=
  if s.config.mode = needed then .next next else .refused (.wrongMode needed)

/-- `PAL.SET_DMG_BG value` (R122): writes `bg[0]` only. -/
def execPalSetDmgBg (value : Byte) (s : State) : Answer :=
  s.inMode .dmg { s with pal := { s.pal with bg := s.pal.bg.set 0 (dmgPalette s.config.dmgEntry.bg value) } }

/-- `PAL.SET_DMG_OBJ0 value` (R123): writes `obj[0]` only. -/
def execPalSetDmgObj0 (value : Byte) (s : State) : Answer :=
  s.inMode .dmg { s with pal := { s.pal with obj := s.pal.obj.set 0 (dmgPalette s.config.dmgEntry.obj0 value) } }

/-- `PAL.SET_DMG_OBJ1 value` (R124): writes `obj[1]` only. -/
def execPalSetDmgObj1 (value : Byte) (s : State) : Answer :=
  s.inMode .dmg { s with pal := { s.pal with obj := s.pal.obj.set 1 (dmgPalette s.config.dmgEntry.obj1 value) } }

/-- `PAL.WRITE_CGB_BG offset, value` (R125). -/
def execPalWriteCgbBg (offset : BitVec 6) (value : Byte) (s : State) : Answer :=
  s.inMode .cgb { s with pal := s.pal.writeBg offset value }

/-- `PAL.WRITE_CGB_OBJ offset, value` (R126). -/
def execPalWriteCgbObj (offset : BitVec 6) (value : Byte) (s : State) : Answer :=
  s.inMode .cgb { s with pal := s.pal.writeObj offset value }

/-- `PAL.BG i` (R129): returns `bg[i]`, in both modes. -/
def execPalBg (index : BitVec 3) (s : State) : Answer :=
  .next (s.emit (.palette (s.pal.bg[index.toNat]'index.isLt)))

/-- `PAL.OBJ i` (R130): returns `obj[i]`, in both modes. -/
def execPalObj (index : BitVec 3) (s : State) : Answer :=
  .next (s.emit (.palette (s.pal.obj[index.toNat]'index.isLt)))

/-- `PAL.INIT` (R121). -/
def execPalInit (s : State) : Answer :=
  .next { s with pal := PaletteStore.init s.config s.pal }

end Sys2Proof.Machine
end

