-- ==== Sys2Proof/Machine/TileMeanings.lean ====
section
/-! DEFINITION. The meaning of the tile fetcher's operation (41_tile_fetcher.md). -/

namespace Sys2Proof.Machine

/-- `TILE.FETCH_ROW` (R140): returns the eight colour indices and writes no state; a tile index above 383 has no
meaning (R110, U2). -/
def execTileFetchRow (bank : BitVec 1) (tileIndex : BitVec 9) (row : BitVec 3) (flipX flipY : Bool) (s : State) :
    Answer :=
  if tileIndexOk tileIndex then .next (s.emit (.tileRow (fetchRow s.vram bank tileIndex row flipX flipY)))
  else .refused (.outOfDomain .tileIndex)

end Sys2Proof.Machine
end

