-- ==== Sys2Proof/Machine/TimingMeanings.lean ====
section
/-! DEFINITION. The meanings of the timing driver's operations and of reset (44_timing_driver.md,
70_reset_and_hazards.md). -/

namespace Sys2Proof.Machine

/-- `TICK n` (R190): "A `tick` always completes." -/
def execTick (n : Nat) (s : State) : Answer := .next (s.tick n)

/-- `LINE` (R200). -/
def execLine (s : State) : Answer := .next s.line

/-- `RESET` (R250). -/
def execReset (s : State) : Answer := .next s.restart

end Sys2Proof.Machine
end

