-- ==== Sys2Proof/Machine/Dispatch.lean ====
section
/-! DEFINITION. One arm per operation. -/

namespace Sys2Proof.Machine

def exec (i : Instr) (s : State) : Host.Outcome State Fault Refusal :=
  match i with
  | .palSetDmgBg v => Sys2Proof.Machine.execPalSetDmgBg v s
  | .palSetDmgObj0 v => Sys2Proof.Machine.execPalSetDmgObj0 v s
  | .palSetDmgObj1 v => Sys2Proof.Machine.execPalSetDmgObj1 v s
  | .palWriteCgbBg o v => Sys2Proof.Machine.execPalWriteCgbBg o v s
  | .palWriteCgbObj o v => Sys2Proof.Machine.execPalWriteCgbObj o v s
  | .palBg n => Sys2Proof.Machine.execPalBg n s
  | .palObj n => Sys2Proof.Machine.execPalObj n s
  | .tileFetchRow b t r fx fy => Sys2Proof.Machine.execTileFetchRow b t r fx fy s
  | .fbPlot x y q c => Sys2Proof.Machine.execFbPlot x y q c s
  | .fbClear => Sys2Proof.Machine.execFbClear s
  | .fbPresent => Sys2Proof.Machine.execFbPresent s
  | .draw ly => Sys2Proof.Machine.execDraw ly s
  | .drawTile p b t fx fy sx sy ly q sp => Sys2Proof.Machine.execDrawTile p b t fx fy sx sy ly q sp s
  | .drawBg ly => Sys2Proof.Machine.execDrawBg ly s
  | .drawObj ly => Sys2Proof.Machine.execDrawObj ly s
  | .drawWin ly => Sys2Proof.Machine.execDrawWin ly s
  | .tick n => Sys2Proof.Machine.execTick n s
  | .line => Sys2Proof.Machine.execLine s
  | .reset => Sys2Proof.Machine.execReset s
  | .palInit => Sys2Proof.Machine.execPalInit s

end Sys2Proof.Machine
end

