-- ==== Sys2Proof/Machine/Step.lean ====
section
/-! DEFINITION. One step: take the next entry of the host's list and perform it. -/

namespace Sys2Proof.Machine

/-- A block step or a host step (R10), never interleaved (R65, R73). A command that decodes to an operation is that
operation, on the state with the command taken off the list; one that decodes to none is refused by name (R110).
With the list empty the host does nothing and neither does the block: "The PPU is driven exclusively by the CPU loop"
(R10; log 1). -/
def step (s : State) : Host.Outcome State Fault Refusal :=
  match s.fetch with
  | none => .next s
  | some (.host h, s') => s'.hostStep h
  | some (.command c, s') =>
    match decode c with
    | .ok i => exec i s'
    | .error e => .refused (.undecodable e)

/-- `s` with the command of a table word put first in the host's list, so that the next step runs it. Nothing else
changes. -/
def State.withFetchWord (s : State) (nbits w : Nat) : State :=
  { s with pending := .command (tableCommand nbits w) :: s.pending }

end Sys2Proof.Machine
end

