-- ==== Sys2Proof/Safety.lean ====
section
/-! DEFINITION. What every state of a run satisfies, in the terms the claims use. -/

namespace Sys2Proof.Machine

/-- The tags a cell may hold: {0, 1, 2, 3, 5, 6} (R40, R154). -/
abbrev legalTag (t : Byte) : Prop := t = 0 ∨ t = 1 ∨ t = 2 ∨ t = 3 ∨ t = 5 ∨ t = 6

/-- Every cell of the framebuffer holds a legal tag (R154). -/
def Frame.TagsLegal (f : Frame) : Prop := ∀ (x : Fin 160) (y : Fin 144), legalTag (cellTag (f.get x y))

/-- "per-scanline count 0..10" (R36). -/
def State.CountersBounded (s : State) : Prop := ∀ l : Fin 144, s.spritesDrawn[l] ≤ 10

/-- `lcd_cycles ∈ [0, 456)` between operations (R41). -/
def State.CyclesBounded (s : State) : Prop := s.lcdCycles < 456

/-- VRAM and OAM are in canonical form and hold nothing outside their sizes (R37, R38). -/
def State.MemoryCanonical (s : State) : Prop := Memory.wf vramSize s.vram ∧ Memory.wf oamSize s.oam

/-- In CGB mode every resolved colour is the expansion of its palette RAM word (R34). -/
def State.PaletteCoherent (s : State) : Prop :=
  s.config.mode = .cgb → s.pal.bg = resolveRam s.pal.bgRam ∧ s.pal.obj = resolveRam s.pal.objRam

/-- The invariant of the block. -/
structure State.Inv (s : State) : Prop where
  tags : s.frame.TagsLegal
  counters : s.CountersBounded
  cycles : s.CyclesBounded
  memory : s.MemoryCanonical
  palettes : s.PaletteCoherent

/-- The hardware mode an operation of one palette path needs (R120); the others run in both modes. -/
def neededMode : Instr → Option Mode
  | .palSetDmgBg _ | .palSetDmgObj0 _ | .palSetDmgObj1 _ => some .dmg
  | .palWriteCgbBg _ _ | .palWriteCgbObj _ _ => some .cgb
  | .palBg _ | .palObj _ | .tileFetchRow _ _ _ _ _ => none
  | .fbPlot _ _ _ _ | .fbClear | .fbPresent => none
  | .draw _ | .drawTile _ _ _ _ _ _ _ _ _ _ | .drawBg _ | .drawObj _ | .drawWin _ => none
  | .tick _ | .line | .reset | .palInit => none

/-- The operations that may change the palette store: "the five palette write operations … and … reset" (R32). -/
def writesPalettes : Instr → Bool
  | .palSetDmgBg _ | .palSetDmgObj0 _ | .palSetDmgObj1 _ => true
  | .palWriteCgbBg _ _ | .palWriteCgbObj _ _ => true
  | .reset | .palInit => true
  | .palBg _ | .palObj _ | .tileFetchRow _ _ _ _ _ => false
  | .fbPlot _ _ _ _ | .fbClear | .fbPresent => false
  | .draw _ | .drawTile _ _ _ _ _ _ _ _ _ _ | .drawBg _ | .drawObj _ | .drawWin _ => false
  | .tick _ | .line => false

/-- The operations that may write `LY` or `STAT` (R192, R195, R196, R250). -/
def writesScanline : Instr → Bool
  | .tick _ | .line | .reset => true
  | .palSetDmgBg _ | .palSetDmgObj0 _ | .palSetDmgObj1 _ => false
  | .palWriteCgbBg _ _ | .palWriteCgbObj _ _ | .palInit => false
  | .palBg _ | .palObj _ | .tileFetchRow _ _ _ _ _ => false
  | .fbPlot _ _ _ _ | .fbClear | .fbPresent => false
  | .draw _ | .drawTile _ _ _ _ _ _ _ _ _ _ | .drawBg _ | .drawObj _ | .drawWin _ => false

/-- Perform operations one after the other, stopping at the first that has no next state. -/
def execAll : List Instr → State → Answer
  | [], s => .next s
  | i :: is, s =>
    match exec i s with
    | .next t => execAll is t
    | .fault r => .fault r
    | .refused r => .refused r

/-- A list with one output when a condition holds, else with none. -/
def outputIf (b : Bool) (e : Event) : List Event := if b then [e] else []

/-- Whether an output is a presentation. -/
def Event.isPresent : Event → Bool
  | .present _ => true
  | .raised _ | .hdmaTick | .palette _ | .tileRow _ | .hostRead _ => false

/-- Whether an output is a raise. -/
def Event.isRaise : Event → Bool
  | .raised _ => true
  | .present _ | .hdmaTick | .palette _ | .tileRow _ | .hostRead _ => false

end Sys2Proof.Machine
end

