-- ==== Sys2Proof/Certificates/Slice0/Obligations.lean ====
section
/-! DEFINITION. The statements for the provers. Each docstring names the rule of spec/ the statement formalises.
In a conclusion `t = { s with … }` says that every field not named is as before: registers, palettes, counters, every
byte of VRAM and OAM, every cell of the framebuffer, the outputs, the request bits and the inputs. -/

open Sys2Proof Sys2Proof.Machine

/-! ### Commands and operations -/

/-- R102, R108, R113: decoding the command of an operation gives the operation back, for every operand. The pair
form of a command is the spec's decision D1 and the model's log 9. -/
def Obligations.DecodeOfEncodeIsIdentity : Prop := ∀ i : Instr, decode (encode i) = .ok i

/-- R102, R108: every operation has one command; no two commands decode to the same operation. The pair form of a
command is the spec's decision D1 and the model's log 9. -/
def Obligations.EncodeOfDecodeIsIdentity : Prop := ∀ (c : Command) (i : Instr), decode c = .ok i → encode i = c

/-- R108, R110: "Operation numbers 20 to 31 select nothing", whatever the fields, and a step refuses them. The
numbering is the spec's decision D1, the refusal D15. -/
def Obligations.SelectorsAbove19SelectNothing : Prop :=
  ∀ c : Command, 20 ≤ c.op.toNat →
    decode c = .error (.unknownSelector c.op) ∧
    ∀ (s : State) (rest : List Request), s.pending = .command c :: rest →
      step s = .refused (.undecodable (.unknownSelector c.op))

/-- R108, R113: some (op, fields) pairs of 95_test_vectors.md and what they stand for. The pair form of a command is
the spec's decision D1 and the model's log 9. -/
def Obligations.SampleCommandsDecode : Prop :=
  decode ⟨0, [0xE4]⟩ = .ok (.palSetDmgBg 0xE4) ∧
  decode ⟨2, [0x1B]⟩ = .ok (.palSetDmgObj1 0x1B) ∧
  decode ⟨3, [16, 0x00]⟩ = .ok (.palWriteCgbBg 16 0x00) ∧
  decode ⟨4, [43, 0x52]⟩ = .ok (.palWriteCgbObj 43 0x52) ∧
  decode ⟨7, [1, 383, 7, 0, 0]⟩ = .ok (.tileFetchRow 1 383 7 false false) ∧
  decode ⟨8, [8, 0, 5, 0x555555]⟩ = .ok (.fbPlot 8 0 5 0x555555) ∧
  decode ⟨11, [144]⟩ = .ok (.draw 144) ∧
  decode ⟨16, [70224]⟩ = .ok (.tick 70224) ∧
  decode ⟨17, []⟩ = .ok .line ∧
  decode ⟨18, []⟩ = .ok .reset

/-- R10, R65: a step whose next entry is a command that decodes to `i` is exactly `exec i`, on the state with the
command taken off the host's list. The list of commands is the model's, log 1. -/
def Obligations.StepRunsDecodedCommand : Prop :=
  ∀ (s : State) (c : Command) (rest : List Request) (i : Instr),
    s.pending = .command c :: rest → decode c = .ok i → step s = exec i { s with pending := rest }

/-- R10, R65 (the list and the idle step are the model's, log 1): a step whose next entry is a host step performs
that host step; with nothing left to do a step changes nothing. -/
def Obligations.StepPerformsHostSteps : Prop :=
  (∀ (s : State) (h : HostStep) (rest : List Request),
    s.pending = .host h :: rest → step s = { s with pending := rest }.hostStep h) ∧
  ∀ s : State, s.pending = [] → step s = .next s

/-! ### Domains and modes -/

/-- R11: every operation with its arguments inside their stated domains, in a mode its palette path has, "yields
exactly one next state". The modes are the spec's decision D31. -/
def Obligations.InDomainOperationsComplete : Prop :=
  ∀ (i : Instr) (s : State), i.WellFormed → (∀ m, neededMode i = some m → s.config.mode = m) →
    ∃ t, exec i s = .next t

/-- R110, U2: an operation with an argument outside its stated domain is refused, naming the field. The refusal is
the spec's decision D15; which domains, log 10. -/
def Obligations.OutOfDomainOperandsRefused : Prop :=
  ∀ (i : Instr) (s : State) (f : Field), i.domainError = some f → exec i s = .refused (.outOfDomain f)

/-- R120, D31: `PAL.SET_DMG_*` complete in DMG mode and are refused in CGB mode, `PAL.WRITE_CGB_*` the reverse, and
`PAL.BG`, `PAL.OBJ` "serve both". -/
def Obligations.PalettePathsFollowMode : Prop :=
  ∀ (s : State) (v : Byte) (o : BitVec 6) (k : BitVec 3),
    (s.config.mode = .cgb →
      exec (.palSetDmgBg v) s = .refused (.wrongMode .dmg) ∧
      exec (.palSetDmgObj0 v) s = .refused (.wrongMode .dmg) ∧
      exec (.palSetDmgObj1 v) s = .refused (.wrongMode .dmg) ∧
      (∃ t, exec (.palWriteCgbBg o v) s = .next t) ∧ ∃ t, exec (.palWriteCgbObj o v) s = .next t) ∧
    (s.config.mode = .dmg →
      exec (.palWriteCgbBg o v) s = .refused (.wrongMode .cgb) ∧
      exec (.palWriteCgbObj o v) s = .refused (.wrongMode .cgb) ∧
      (∃ t, exec (.palSetDmgBg v) s = .next t) ∧ (∃ t, exec (.palSetDmgObj0 v) s = .next t) ∧
      ∃ t, exec (.palSetDmgObj1 v) s = .next t) ∧
    (∃ t, exec (.palBg k) s = .next t) ∧ ∃ t, exec (.palObj k) s = .next t

/-! ### The palette store -/

/-- R122: in DMG mode `PAL.SET_DMG_BG value` sets colour `i` of `bg[0]` to shade `value[2i+1:2i]` of the table's
`bg` list and changes nothing else. The table's form and the bit groups are the spec's decisions D11 and D10. -/
def Obligations.SetDmgBgMapsShades : Prop :=
  ∀ (s : State) (v : Byte), s.config.mode = .dmg →
    ∃ t, exec (.palSetDmgBg v) s = .next t ∧
      t = { s with pal := { s.pal with bg := t.pal.bg } } ∧
      (∀ i : Fin 4, t.pal.bg[0][i] =
        (s.config.dmgTable[s.config.checksum.toNat]'s.config.checksum.isLt).bg[v.toNat / 4 ^ i.val % 4]'(Nat.mod_lt _ (by decide))) ∧
      ∀ k : Fin 8, k ≠ 0 → t.pal.bg[k] = s.pal.bg[k]

/-- R123, R124: in DMG mode `PAL.SET_DMG_OBJ0 value` sets colour `i` of `obj[0]` to shade `value[2i+1:2i]` of the
table's `obj0` list, `PAL.SET_DMG_OBJ1 value` that of `obj[1]` to that shade of the `obj1` list, and neither changes
anything else. The table's form and the bit groups are the spec's decisions D11 and D10. -/
def Obligations.SetDmgObjMapsShades : Prop :=
  ∀ (s : State) (v : Byte), s.config.mode = .dmg →
    (∃ t, exec (.palSetDmgObj0 v) s = .next t ∧
      t = { s with pal := { s.pal with obj := t.pal.obj } } ∧
      (∀ i : Fin 4, t.pal.obj[0][i] =
        (s.config.dmgTable[s.config.checksum.toNat]'s.config.checksum.isLt).obj0[v.toNat / 4 ^ i.val % 4]'(Nat.mod_lt _ (by decide))) ∧
      ∀ k : Fin 8, k ≠ 0 → t.pal.obj[k] = s.pal.obj[k]) ∧
    ∃ t, exec (.palSetDmgObj1 v) s = .next t ∧
      t = { s with pal := { s.pal with obj := t.pal.obj } } ∧
      (∀ i : Fin 4, t.pal.obj[1][i] =
        (s.config.dmgTable[s.config.checksum.toNat]'s.config.checksum.isLt).obj1[v.toNat / 4 ^ i.val % 4]'(Nat.mod_lt _ (by decide))) ∧
      ∀ k : Fin 8, k ≠ 1 → t.pal.obj[k] = s.pal.obj[k]

/-- R125, R60, R105: in CGB mode `PAL.WRITE_CGB_BG offset, value` stores one byte of `bg_ram` and recomputes the one
colour whose little-endian word holds it; nothing else changes. -/
def Obligations.WriteCgbBgStoresAndResolves : Prop :=
  ∀ (s : State) (o : BitVec 6) (v : Byte), s.config.mode = .cgb →
    ∃ t, exec (.palWriteCgbBg o v) s = .next t ∧
      t = { s with pal := { s.pal with bg := t.pal.bg, bgRam := t.pal.bgRam } } ∧
      (∀ a : Fin 64, t.pal.bgRam[a] = if a.val = o.toNat then v else s.pal.bgRam[a]) ∧
      ∀ (i : Fin 8) (j : Fin 4), t.pal.bg[i][j] =
        if 4 * i.val + j.val = o.toNat / 2 then
          resolve555 (t.pal.bgRam[8 * i.val + 2 * j.val + 1] ++ t.pal.bgRam[8 * i.val + 2 * j.val])
        else s.pal.bg[i][j]

/-- R126, R60, R105: in CGB mode `PAL.WRITE_CGB_OBJ offset, value` stores one byte of `obj_ram` and recomputes the one
colour whose little-endian word holds it; nothing else changes. -/
def Obligations.WriteCgbObjStoresAndResolves : Prop :=
  ∀ (s : State) (o : BitVec 6) (v : Byte), s.config.mode = .cgb →
    ∃ t, exec (.palWriteCgbObj o v) s = .next t ∧
      t = { s with pal := { s.pal with obj := t.pal.obj, objRam := t.pal.objRam } } ∧
      (∀ a : Fin 64, t.pal.objRam[a] = if a.val = o.toNat then v else s.pal.objRam[a]) ∧
      ∀ (i : Fin 8) (j : Fin 4), t.pal.obj[i][j] =
        if 4 * i.val + j.val = o.toNat / 2 then
          resolve555 (t.pal.objRam[8 * i.val + 2 * j.val + 1] ++ t.pal.objRam[8 * i.val + 2 * j.val])
        else s.pal.obj[i][j]

/-- R131: in CGB mode, after any sequence of writes that covers every offset, byte `B o` at offset `o`, in any order
and with any repetitions, every colour is the expansion of its two bytes; on both sides. The spec marks R131
"derived: from rules R125, R127 and 10_state.md rule R34". -/
def Obligations.CgbPaletteRoundTrip : Prop :=
  ∀ (s : State) (order : List (BitVec 6)) (B : BitVec 6 → Byte), s.config.mode = .cgb → (∀ o, o ∈ order) →
    (∃ t, execAll (order.map fun o => .palWriteCgbBg o (B o)) s = .next t ∧
      ∀ (i : Fin 8) (j : Fin 4), t.pal.bg[i][j] =
        resolve555 (B (BitVec.ofNat 6 (8 * i + 2 * j + 1)) ++ B (BitVec.ofNat 6 (8 * i + 2 * j)))) ∧
    ∃ t, execAll (order.map fun o => .palWriteCgbObj o (B o)) s = .next t ∧
      ∀ (i : Fin 8) (j : Fin 4), t.pal.obj[i][j] =
        resolve555 (B (BitVec.ofNat 6 (8 * i + 2 * j + 1)) ++ B (BitVec.ofNat 6 (8 * i + 2 * j)))

/-- R107, R128: `Expand5(c) = (c*255 + 15) / 31`, which is the integer nearest to `c * 255 / 31`. That the formula
is the nearest integer the spec marks "derived: by evaluation". -/
def Obligations.ExpandIsNearestInteger : Prop :=
  ∀ c : BitVec 5, (expand5 c).toNat = (c.toNat * 255 + 15) / 31 ∧
    62 * (expand5 c).toNat < 2 * (c.toNat * 255) + 31 ∧ 2 * (c.toNat * 255) < 62 * (expand5 c).toNat + 31

/-- R127, R97: red, green and blue come from `w[4:0]`, `w[9:5]`, `w[14:10]`, and `w[15]` is ignored. -/
def Obligations.ResolveTakesThreeFields : Prop :=
  ∀ w : BitVec 16,
    (resolve555 w).toNat / 65536 = (expand5 (BitVec.ofNat 5 w.toNat)).toNat ∧
    (resolve555 w).toNat / 256 % 256 = (expand5 (BitVec.ofNat 5 (w.toNat / 32))).toNat ∧
    (resolve555 w).toNat % 256 = (expand5 (BitVec.ofNat 5 (w.toNat / 1024))).toNat ∧
    resolve555 w = resolve555 (w &&& 0x7FFF)

/-- R129, R130: `PAL.BG i` returns `bg[i]`, `PAL.OBJ i` returns `obj[i]`, in both modes, and neither changes anything
else. -/
def Obligations.PaletteReadsReturnPalette : Prop :=
  ∀ (s : State) (k : BitVec 3),
    exec (.palBg k) s = .next { s with events := s.events ++ [.palette (s.pal.bg[k.toNat]'k.isLt)] } ∧
    exec (.palObj k) s = .next { s with events := s.events ++ [.palette (s.pal.obj[k.toNat]'k.isLt)] }

/-- R121: `PAL.INIT`. CGB: every byte of `bg_ram` is `CGB_BG_RAM_FILL`, `obj_ram` is `OBJ_RAM_RESET`, and every
colour is the expansion of its word (0xFFC53A for the fill 0x1F). DMG: `bg[0]`, `obj[0]`, `obj[1]` are the table's
lists; nothing is said of the palettes and RAMs U3 leaves without a value. Nothing outside the store changes. The
fill, the object RAM and the DMG seed are the spec's decisions D13, D14, D12. -/
def Obligations.PaletteInitSeedsStore : Prop :=
  (∀ s : State, s.config.mode = .cgb →
    ∃ t, exec .palInit s = .next t ∧ t = { s with pal := t.pal } ∧
      (∀ a : Fin 64, t.pal.bgRam[a] = s.config.cgbBgRamFill ∧ t.pal.objRam[a] = s.config.objRamReset[a]) ∧
      ∀ (i : Fin 8) (j : Fin 4),
        t.pal.bg[i][j] = resolve555 (s.config.cgbBgRamFill ++ s.config.cgbBgRamFill) ∧
        t.pal.obj[i][j] = resolve555
          (s.config.objRamReset[8 * i.val + 2 * j.val + 1] ++ s.config.objRamReset[8 * i.val + 2 * j.val])) ∧
  resolve555 (0x1F#8 ++ 0x1F#8) = 0xFFC53A ∧
  ∀ s : State, s.config.mode = .dmg →
    ∃ t, exec .palInit s = .next t ∧ t = { s with pal := t.pal } ∧
      t.pal.bg[0] = (s.config.dmgTable[s.config.checksum.toNat]'s.config.checksum.isLt).bg ∧
      t.pal.obj[0] = (s.config.dmgTable[s.config.checksum.toNat]'s.config.checksum.isLt).obj0 ∧
      t.pal.obj[1] = (s.config.dmgTable[s.config.checksum.toNat]'s.config.checksum.isLt).obj1

/-! ### The tile fetcher -/

/-- R140, R141, R61, R69: `TILE.FETCH_ROW` returns, for each of the eight pixels, twice the high plane's bit plus the
low plane's bit, bit `7 - px` (bit `px` with `flip_x`) of row `row` (row `7 - row` with `flip_y`); it writes no
state. -/
def Obligations.FetchRowReturnsPlanarPixels : Prop :=
  ∀ (s : State) (b : BitVec 1) (n : BitVec 9) (r : BitVec 3) (fx fy : Bool), n.toNat < 384 →
    ∃ pix : PixelRow,
      exec (.tileFetchRow b n r fx fy) s = .next { s with events := s.events ++ [.tileRow pix] } ∧
      ∀ px : Fin 8,
        let row := if fy then 7 - r.toNat else r.toNat
        let base := b.toNat * 8192 + n.toNat * 16 + row * 2
        let bit := if fx then px.val else 7 - px.val
        (pix[px]).toNat =
          2 * ((s.vram.read (base + 1)).toNat / 2 ^ bit % 2) + (s.vram.read base).toNat / 2 ^ bit % 2

/-- R142: the laws of the tile fetcher: `flip_y` reads row `7 - row`, `flip_x` reverses the eight results, and the
four uniform planes give the four uniform rows. The spec marks R142 "derived: from rule R140". -/
def Obligations.FetchRowFlipAndUniformLaws : Prop :=
  ∀ (vram : Memory) (b : BitVec 1) (n : BitVec 9) (r : BitVec 3) (fx fy : Bool),
    fetchRow vram b n r fx true = fetchRow vram b n (7 - r) fx false ∧
    (∀ px : Fin 8, (fetchRow vram b n r true fy)[px] = (fetchRow vram b n r false fy)[7 - px.val]) ∧
    ∀ (lo hi : Byte),
      (∀ k, k < 16 → vram.read (b.toNat * 8192 + n.toNat * 16 + k) = if k % 2 = 0 then lo else hi) → ∀ px : Fin 8,
      (lo = 0 → hi = 0 → (fetchRow vram b n r fx fy)[px] = 0) ∧
      (lo = 0xFF → hi = 0xFF → (fetchRow vram b n r fx fy)[px] = 3) ∧
      (lo = 0xFF → hi = 0 → (fetchRow vram b n r fx fy)[px] = 1) ∧
      (lo = 0 → hi = 0xFF → (fetchRow vram b n r fx fy)[px] = 2)

/-- R104: a map byte is a tile index, unsigned with `LCDC[4] = 1`, else `256 + sext_8(n)`; both stay in the fetcher's
domain; a short sprite's tile byte is used unsigned. -/
def Obligations.TileIndexFromMapByte : Prop :=
  (∀ n : Byte, (tileIndexOf true n).toNat = n.toNat ∧
    (tileIndexOf false n).toNat = (if n.toNat < 128 then 256 + n.toNat else n.toNat) ∧
    (tileIndexOf true n).toNat < 384 ∧ (tileIndexOf false n).toNat < 384) ∧
  ∀ (m : Mode) (obj : Vector Palette 8) (o : OamEntry) (ly : Fin 144),
    (spriteTile m obj false o ly).tileIndex.toNat = o.tile.toNat

/-- R163, R70, R94: the tile index of a map position comes from its byte `n` in bank 0, `n` with `LCDC[4] = 1`, else
`256 + sext_8(n)`; its attribute from the same offset of bank
1 in CGB mode and is 0 in DMG mode; attribute bits 2..0, 3, 5, 6 are palette, bank, horizontal and vertical flip. -/
def Obligations.MapEntryFields : Prop :=
  ∀ (m : Mode) (vram : Memory) (bg : Vector Palette 8) (u : Bool) (off ty tx : Nat),
    let a := off + ty * 32 + tx
    let attr := if m = .cgb then (vram.read (8192 + a)).toNat else 0
    let e := mapEntry m vram bg u off ty tx
    e.tileIndex.toNat = (if u = true ∨ 128 ≤ (vram.read a).toNat then (vram.read a).toNat
      else 256 + (vram.read a).toNat) ∧
    e.pal = bg[attr % 8]'(Nat.mod_lt _ (by decide)) ∧
    e.bank.toNat = attr / 8 % 2 ∧
    (e.flipX = true ↔ attr / 32 % 2 = 1) ∧
    (e.flipY = true ↔ attr / 64 % 2 = 1)

/-! ### The framebuffer -/

/-- R150: inside its domain `FB.PLOT` writes `(q << 24) | c` into its cell exactly when `q` is at least the cell's
tag, and changes nothing else. The comparison of tag numbers is the spec's decision D6; the priorities, log 10. -/
def Obligations.PlotArbitratesByTag : Prop :=
  ∀ (s : State) (x y : Byte) (q : Tag) (c : Color), x.toNat < 160 → y.toNat < 144 →
    (q = 1 ∨ q = 2 ∨ q = 3 ∨ q = 5 ∨ q = 6) →
    ∃ t, exec (.fbPlot x y q c) s = .next t ∧ t = { s with frame := t.frame } ∧
      ∀ (x' : Fin 160) (y' : Fin 144), (t.frame.get x' y').toNat =
        if x'.val = x.toNat ∧ y'.val = y.toNat ∧ (s.frame.get x' y').toNat / 2 ^ 24 ≤ q.toNat then
          q.toNat * 2 ^ 24 + c.toNat
        else (s.frame.get x' y').toNat

/-- R155: the table of arbitration outcomes, stored tag against incoming priority. The spec marks R155 "derived:
from rule R150", whose comparison is its decision D6. -/
def Obligations.ArbitrationTable : Prop :=
  ∀ (old : Cell) (q : Tag) (c : Color), legalTag (cellTag old) → (q = 1 ∨ q = 3 ∨ q = 2 ∨ q = 5 ∨ q = 6) →
    plotCell old q c =
      if cellTag old = 0 ∨ cellTag old = 1 ∨ (cellTag old = 2 ∧ q ≠ 1) ∨
          (cellTag old = 3 ∧ (q = 3 ∨ q = 5 ∨ q = 6)) ∨ (cellTag old = 5 ∧ (q = 5 ∨ q = 6)) ∨
          (cellTag old = 6 ∧ q = 6) then mkCell q c
      else old

/-- R152: `FB.CLEAR` sets every cell to 0 and changes nothing else. -/
def Obligations.ClearZeroesEveryCell : Prop :=
  ∀ s : State, ∃ t, exec .fbClear s = .next t ∧ t = { s with frame := t.frame } ∧
    ∀ (x : Fin 160) (y : Fin 144), t.frame.get x y = 0

/-- R153, R71, R223: `FB.PRESENT` delivers the 23040 cells, cell (x, y) at index `y*160 + x`, when a display is
attached; without one it does nothing; it changes no state of the block. The payload is the spec's decision D22. -/
def Obligations.PresentDeliversRowMajor : Prop :=
  ∀ s : State, ∃ cells : List Cell,
    exec .fbPresent s = .next (if s.config.displayAttached then { s with events := s.events ++ [.present cells] } else s) ∧
    cells.length = 23040 ∧
    ∀ (x : Fin 160) (y : Fin 144), cells[y.val * 160 + x.val]? = some (s.frame.get x y)

/-- R62, R99: handed out as bytes, the payload is four bytes a cell, "the byte at the lowest address of a cell is blue,
then green, then red, then the tag byte", cell (x, y) from byte `4*(y*160 + x)` on; and a cell plotted with priority
`q` and a colour gives that colour's blue, green and red and the tag `q`. The order of the cells is the spec's decision
D22. -/
def Obligations.FramebufferByteForm : Prop :=
  (∀ f : Frame, (payloadBytes f.cells).length = 92160 ∧
    ∀ (x : Fin 160) (y : Fin 144),
      let n := 4 * (y.val * 160 + x.val)
      let c := (f.get x y).toNat
      (payloadBytes f.cells)[n]? = some (BitVec.ofNat 8 c) ∧
      (payloadBytes f.cells)[n + 1]? = some (BitVec.ofNat 8 (c / 256)) ∧
      (payloadBytes f.cells)[n + 2]? = some (BitVec.ofNat 8 (c / 65536)) ∧
      (payloadBytes f.cells)[n + 3]? = some (BitVec.ofNat 8 (c / 16777216))) ∧
  ∀ (q : Tag) (r g b : Byte), cellBytes (mkCell q (r ++ g ++ b)) = [b, g, r, q.setWidth 8]

/-! ### The compositor -/

/-- R162, R151, R168: inside its domain `DRAW.TILE` plots, on line `ly` only, the pixels of tile row `ly - sy` under
columns `sx` to `sx + 7`, clipped to the screen, a sprite's colour index 0 skipped, with the base priority or, for
base 0, priority 1 for colour index 0 and 3 for the others; nothing when the row is outside 0..7. The clipping and
the row test are the spec's decision D8. -/
def Obligations.DrawTilePlotsOneRow : Prop :=
  ∀ (s : State) (pal : Palette) (b : BitVec 1) (n : BitVec 9) (fx fy : Bool) (sx sy : Int) (ly : Byte) (base : Tag)
    (sprite : Bool), n.toNat < 384 → ly.toNat < 144 → (base = 0 ∨ base = 2 ∨ base = 5 ∨ base = 6) →
    ∃ t, exec (.drawTile pal b n fx fy sx sy ly base sprite) s = .next t ∧ t = { s with frame := t.frame } ∧
      ∀ (x : Fin 160) (y : Fin 144),
        (¬(y.val = ly.toNat ∧ sx ≤ x.val ∧ (x.val : Int) ≤ sx + 7 ∧ sy ≤ ly.toNat ∧ (ly.toNat : Int) ≤ sy + 7) →
          t.frame.get x y = s.frame.get x y) ∧
        ∀ px row : Fin 8, y.val = ly.toNat → (x.val : Int) = sx + px.val → (ly.toNat : Int) = sy + row.val →
          let idx := (fetchRow s.vram b n (BitVec.ofNat 3 row.val) fx fy)[px]
          t.frame.get x y =
            if sprite = true ∧ idx = 0 then s.frame.get x y
            else plotCell (s.frame.get x y) (if base = 0 then if idx = 0 then 1 else 3 else base) pal[idx.toNat]

/-- R164, R151: `DRAW.BG ly` draws the scrolled 256 x 256 plane of its map: column `x` of line `ly` shows pixel `(x
+ SCX) % 8` of row `(ly + SCY) % 8` of the tile at map row `(ly + SCY) / 8 mod 32` and map column `(x + SCX) / 8 mod
32`, plotted with priority 1 for colour index 0 and 3 for the others; all 160 columns are plotted and nothing else
changes. Above line 143 nothing changes. The tile's screen row is the spec's decision D7; the no-op above line 143
is the opcode table's, log 10. -/
def Obligations.BackgroundIsScrolledPlane : Prop :=
  ∀ (s : State) (ly : Byte),
    (144 ≤ ly.toNat → exec (.drawBg ly) s = .next s) ∧
    (ly.toNat < 144 → ∃ t, exec (.drawBg ly) s = .next t ∧ t = { s with frame := t.frame } ∧
      ∀ (x : Fin 160) (y : Fin 144),
        let off := if s.regs.lcdc.getLsbD 3 then 0x1C00 else 0x1800
        let vy := ly.toNat + s.regs.scy.toNat
        let vx := x.val + s.regs.scx.toNat
        let e := mapEntry s.config.mode s.vram s.pal.bg (s.regs.lcdc.getLsbD 4) off (vy / 8 % 32) (vx / 8 % 32)
        let idx := (fetchRow s.vram e.bank e.tileIndex (BitVec.ofNat 3 (vy % 8)) e.flipX e.flipY)[vx % 8]
        t.frame.get x y =
          if y.val = ly.toNat then plotCell (s.frame.get x y) (if idx = 0 then 1 else 3) e.pal[idx.toNat]
          else s.frame.get x y)

/-- R166, R167, R170, R74: with at most ten sprites counted before it, `DRAW.OBJ ly` draws the first entries of OAM,
in OAM order, that cover the line, until ten are counted in all, and counts them; entry `e` is the four bytes `4e` to `4e+3`, which are its
Y, X, tile and attribute (R72, R92), drawn with the sprite palettes, the mode and `LCDC[2]` as SpriteTileSelection
says; other lines and counters, and everything else, are as before. Above line 143 nothing changes. One counter per
line is the spec's decision D16; the no-op above line 143 is the opcode table's, log 10. -/
def Obligations.SpritePassDrawsFirstTen : Prop :=
  ∀ (s : State) (ly : Byte),
    (144 ≤ ly.toNat → exec (.drawObj ly) s = .next s) ∧
    ∀ l : Fin 144, l.val = ly.toNat → s.spritesDrawn[l] ≤ 10 →
      ∃ t, exec (.drawObj ly) s = .next t ∧ t = { s with frame := t.frame, spritesDrawn := t.spritesDrawn } ∧
        let h : Int := if s.regs.lcdc.getLsbD 2 then 16 else 8
        let onLine := (List.range 40).filter fun e =>
          ((s.oam.read (4 * e)).toNat : Int) - 16 ≤ l.val ∧ (l.val : Int) < ((s.oam.read (4 * e)).toNat : Int) - 16 + h
        let drawn := onLine.take (10 - s.spritesDrawn[l])
        t.frame = drawn.foldl (fun f e => f.drawTile s.vram
          (spriteTile s.config.mode s.pal.obj (s.regs.lcdc.getLsbD 2)
            { y := s.oam.read (4 * e), x := s.oam.read (4 * e + 1)
              tile := s.oam.read (4 * e + 2), attr := s.oam.read (4 * e + 3) } l) l) s.frame ∧
        (∀ (x : Fin 160) (y : Fin 144), y ≠ l → t.frame.get x y = s.frame.get x y) ∧
        ∀ k : Fin 144, t.spritesDrawn[k] = if k = l then s.spritesDrawn[l] + drawn.length else s.spritesDrawn[k]

/-- R167, R169, R171, R172, R173, R174, R175: what a sprite on its line draws: left edge `x - 8`; flips from
attribute bits 5 and 6; base priority 2 or 5 by bit 7; palette and bank by mode; in short mode its tile at `y - 16`;
in tall mode the half that contains the line, `tile & 0xFE` and `tile | 1` changing places with the vertical flip;
and the row drawn is one of the eight. -/
def Obligations.SpriteTileSelection : Prop :=
  ∀ (m : Mode) (obj : Vector Palette 8) (tall : Bool) (o : OamEntry) (ly : Fin 144),
    (spriteVisible tall o ly = true ↔
      (o.y.toNat : Int) - 16 ≤ ly.val ∧ (ly.val : Int) < (o.y.toNat : Int) - 16 + if tall then 16 else 8) ∧
    (spriteVisible tall o ly = true →
      let t := spriteTile m obj tall o ly
      t.sprite = true ∧ t.sx = (o.x.toNat : Int) - 8 ∧
      (t.flipX = true ↔ o.attr.toNat / 32 % 2 = 1) ∧ (t.flipY = true ↔ o.attr.toNat / 64 % 2 = 1) ∧
      t.base = (if o.attr.toNat / 128 = 1 then 2 else 5) ∧
      t.bank.toNat = (if m = .cgb then o.attr.toNat / 8 % 2 else 0) ∧
      t.pal = (if m = .cgb then obj[o.attr.toNat % 8]'(Nat.mod_lt _ (by decide))
        else obj[o.attr.toNat / 16 % 2]'(Nat.lt_of_lt_of_le (Nat.mod_lt _ (by decide)) (by decide))) ∧
      (tall = false → t.tileIndex.toNat = o.tile.toNat ∧ t.sy = (o.y.toNat : Int) - 16) ∧
      (tall = true → (ly.val : Int) < (o.y.toNat : Int) - 8 →
        t.sy = (o.y.toNat : Int) - 16 ∧
        t.tileIndex.toNat = o.tile.toNat / 2 * 2 + if t.flipY then 1 else 0) ∧
      (tall = true → (o.y.toNat : Int) - 8 ≤ ly.val →
        t.sy = (o.y.toNat : Int) - 8 ∧
        t.tileIndex.toNat = o.tile.toNat / 2 * 2 + if t.flipY then 0 else 1) ∧
      0 ≤ (ly.val : Int) - t.sy ∧ (ly.val : Int) - t.sy ≤ 7)

/-- R180, R182, R183: `DRAW.WIN ly`. Nothing changes above line 143, when `WY > ly`, or when `WX >= 167`. Otherwise,
with `wx = WX - 7`, column `x` shows map column `(x - wx) / 8` of map row `(ly - WY) / 8` when that column is at
least `wx / 8` (truncated toward zero), and is as before when it lies further left; every shown pixel is plotted
with priority 6, colour index 0 included, so it replaces every legal cell. Nothing else changes. The truncation is
the spec's decision D9, R182 is marked derived; the no-op above line 143 is the opcode table's, log 10. -/
def Obligations.WindowShowsDoubledOffset : Prop :=
  ∀ (s : State) (ly : Byte),
    (144 ≤ ly.toNat ∨ ly.toNat < s.regs.wy.toNat ∨ 167 ≤ s.regs.wx.toNat → exec (.drawWin ly) s = .next s) ∧
    (ly.toNat < 144 → s.regs.wy.toNat ≤ ly.toNat → s.regs.wx.toNat < 167 →
      ∃ t, exec (.drawWin ly) s = .next t ∧ t = { s with frame := t.frame } ∧
        ∀ (x : Fin 160) (y : Fin 144),
          let wx : Int := (s.regs.wx.toNat : Int) - 7
          let off := if s.regs.lcdc.getLsbD 6 then 0x1C00 else 0x1800
          let vy := ly.toNat - s.regs.wy.toNat
          (¬(y.val = ly.toNat ∧ wx + 8 * wx.tdiv 8 ≤ x.val) → t.frame.get x y = s.frame.get x y) ∧
          ∀ (col : Nat) (px : Fin 8), y.val = ly.toNat → wx.tdiv 8 ≤ col → (x.val : Int) = wx + 8 * col + px.val →
            let e := mapEntry s.config.mode s.vram s.pal.bg (s.regs.lcdc.getLsbD 4) off (vy / 8) col
            let idx := (fetchRow s.vram e.bank e.tileIndex (BitVec.ofNat 3 (vy % 8)) e.flipX e.flipY)[px]
            t.frame.get x y = plotCell (s.frame.get x y) 6 e.pal[idx.toNat] ∧
            (legalTag (cellTag (s.frame.get x y)) → t.frame.get x y = mkCell 6 e.pal[idx.toNat]))

/-- R160, R161: on a visible line `DRAW` clears the framebuffer if the line is 0, zeroes the line's sprite counter, and
then runs background, sprites, window in this order, gated by `LCDC` bits 0, 1 and 5. One counter per line and the
missing test of `LCDC[7]` are the spec's decisions D16 and D23. -/
def Obligations.DrawRunsPassesInOrder : Prop :=
  ∀ (s : State) (ly : Byte) (l : Fin 144), l.val = ly.toNat →
    ∃ s₀ s₁ s₂ t : State,
      s₀ = { s with
        frame := if ly = 0 then Frame.cleared else s.frame
        spritesDrawn := s.spritesDrawn.set l 0 } ∧
      (if s.regs.lcdc.getLsbD 0 then exec (.drawBg ly) s₀ = .next s₁ else s₁ = s₀) ∧
      (if s.regs.lcdc.getLsbD 1 then exec (.drawObj ly) s₁ = .next s₂ else s₂ = s₁) ∧
      (if s.regs.lcdc.getLsbD 5 then exec (.drawWin ly) s₂ = .next t else t = s₂) ∧
      exec (.draw ly) s = .next t

/-- R160, R161, R170: `DRAW` above line 143 changes nothing; on a visible line it writes only that line's cells (and
zeroes the others when the line is 0) and that line's sprite counter, which ends at most 10. One counter per line
and the missing test of `LCDC[7]` are the spec's decisions D16 and D23. -/
def Obligations.DrawTouchesOnlyItsLine : Prop :=
  ∀ (s : State) (ly : Byte),
    (144 ≤ ly.toNat → exec (.draw ly) s = .next s) ∧
    ∀ l : Fin 144, l.val = ly.toNat →
      ∃ t, exec (.draw ly) s = .next t ∧ t = { s with frame := t.frame, spritesDrawn := t.spritesDrawn } ∧
        (∀ (x : Fin 160) (y : Fin 144), y ≠ l → t.frame.get x y = if l = 0 then 0 else s.frame.get x y) ∧
        (∀ k : Fin 144, k ≠ l → t.spritesDrawn[k] = s.spritesDrawn[k]) ∧
        t.spritesDrawn[l] ≤ 10 ∧
        (s.regs.lcdc.getLsbD 1 = false → t.spritesDrawn[l] = 0)

/-! ### The timing driver -/

/-- R192, R23: every `LINE`, LCD enabled or not, completes and writes `(LY + 1) mod 154`. -/
def Obligations.LineAdvancesLy : Prop :=
  ∀ s : State, ∃ t, exec .line s = .next t ∧ t.regs.ly.toNat = (s.regs.ly.toNat + 1) % 154 ∧ t.regs.ly.toNat < 154

/-- R193, R195, R196, R197, R224: `STAT` after a `LINE`. LCD disabled: unchanged. Enabled: bits 7..3 are kept; the
mode is 1 after a line `LY >= 144`, else 0; bit 2 becomes whether `LYC` equals the new `LY` when the line was
visible and bit 6 is set, which needs `LYC` in 1..144, and is kept otherwise. The LCD test of the mode and the
compared `LY` are the spec's decisions D4 and D5. -/
def Obligations.LineUpdatesStat : Prop :=
  ∀ s : State, ∃ t, exec .line s = .next t ∧
    (s.regs.lcdc.getLsbD 7 = false → t.regs.stat = s.regs.stat) ∧
    (s.regs.lcdc.getLsbD 7 = true →
      t.regs.stat.toNat / 8 = s.regs.stat.toNat / 8 ∧
      t.regs.stat.toNat % 4 = (if 144 ≤ s.regs.ly.toNat then 1 else 0) ∧
      (s.regs.ly.toNat < 144 ∧ s.regs.stat.getLsbD 6 = true →
        (t.regs.stat.getLsbD 2 = true ↔ s.regs.lyc.toNat = s.regs.ly.toNat + 1) ∧
        (t.regs.stat.getLsbD 2 = true → 1 ≤ s.regs.lyc.toNat ∧ s.regs.lyc.toNat ≤ 144)) ∧
      (¬(s.regs.ly.toNat < 144 ∧ s.regs.stat.getLsbD 6 = true) →
        t.regs.stat.getLsbD 2 = s.regs.stat.getLsbD 2))

/-- R194, R196, R198, R199, R75, R231, R223: the outputs of a `LINE`, in order: the HDMA pulse, `LCDC` for the
coincidence, `LCDC` for HBlank, `PRESENT` of the frame with the finished line, `VBlank`, `LCDC` for the VBlank mode.
The compared `LY` is the spec's decision D5; R75's order it marks derived. -/
def Obligations.LineEmitsInOrder : Prop :=
  ∀ s : State, ∃ t, exec .line s = .next t ∧
    let en := s.regs.lcdc.getLsbD 7
    let visible := decide (s.regs.ly.toNat < 144)
    let last := decide (s.regs.ly.toNat = 143)
    let hit := decide (s.regs.lyc.toNat = (s.regs.ly.toNat + 1) % 154)
    t.events = s.events
      ++ outputIf (visible && s.hdmaActive) .hdmaTick
      ++ outputIf (en && visible && s.regs.stat.getLsbD 6 && hit) (.raised .lcdc)
      ++ outputIf (en && visible && s.regs.stat.getLsbD 3) (.raised .lcdc)
      ++ outputIf (last && s.config.displayAttached) (.present t.frame.cells)
      ++ outputIf (last && en) (.raised .vblank)
      ++ outputIf (last && en && s.regs.stat.getLsbD 4) (.raised .lcdc)

/-- R200, R191, R42, R66: what else a `LINE` writes: with the LCD enabled the framebuffer and counters are those
`DRAW` of the old `LY` leaves, otherwise they are as before; `vblank_count` counts the lines with `LY = 143`;
registers other than `LY` and `STAT`, and everything else but the outputs and request bits, are as before. That the
draw needs no display, and the counter's width, are the spec's decisions D3 and D18. -/
def Obligations.LineDrawsAndKeepsRest : Prop :=
  ∀ s : State, ∃ t, exec .line s = .next t ∧
    t = { s with
      regs := { s.regs with ly := t.regs.ly, stat := t.regs.stat }
      frame := t.frame, spritesDrawn := t.spritesDrawn, vblankCount := t.vblankCount
      requests := t.requests, events := t.events } ∧
    t.vblankCount = s.vblankCount + (if s.regs.ly.toNat = 143 then 1 else 0) ∧
    (s.regs.lcdc.getLsbD 7 = false → t.frame = s.frame ∧ t.spritesDrawn = s.spritesDrawn) ∧
    (s.regs.lcdc.getLsbD 7 = true → ∃ d, exec (.draw s.regs.ly) s = .next d ∧
      t.frame = d.frame ∧ t.spritesDrawn = d.spritesDrawn)

/-- R190, R41: `TICK n` completes; it runs exactly `(lcd_cycles + n) / 456` `LINE`s one after the other and leaves
`lcd_cycles = (lcd_cycles + n) % 456`. -/
def Obligations.TickRunsOneLinePer456Cycles : Prop :=
  (∀ s : State, exec .line s = .next s.line) ∧
  ∀ (s : State) (n : Nat), exec (.tick n) s =
    .next { State.line^[(s.lcdCycles + n) / 456] s with lcdCycles := (s.lcdCycles + n) % 456 }

/-- R190 (b): `TICK a` followed by `TICK b` is `TICK (a + b)`: same end state, same outputs. The spec marks it
derived. -/
def Obligations.TicksAdd : Prop :=
  ∀ (s t : State) (a b : Nat), exec (.tick a) s = .next t → exec (.tick b) t = exec (.tick (a + b)) s

/-- R190 (a), (d) and source property P3: a `TICK` that does not complete a line changes only `lcd_cycles`. The
exact condition is the spec's resolution C14. -/
def Obligations.ShortTickOnlyAccumulates : Prop :=
  ∀ (s : State) (n : Nat), s.lcdCycles + n < 456 →
    exec (.tick n) s = .next { s with lcdCycles := s.lcdCycles + n }

/-- R204, R194, R197, R198, R227, R228: from `lcd_cycles = 0` and any `LY` in 0..153, with the LCD enabled, 70224
cycles bring `LY` back, raise `VBlank` exactly once and present exactly once (with a display), pulse HDMA 144 times
if it is active and never otherwise, and raise `LCDC` once for the coincidence if its enable is set and `LYC` is in
1..144, 144 times for HBlank if enabled, and once for the VBlank mode if enabled; and `vblank_count` goes up by
one. The spec marks R204 and R197 derived; `vblank_count` and the `LY` that is compared are its decisions D18 and D5;
that only the presentation needs the display is D3. -/
def Obligations.FrameEventCounts : Prop :=
  ∀ s : State, s.lcdCycles = 0 → s.regs.ly.toNat < 154 → s.regs.lcdc.getLsbD 7 = true →
    ∃ (t : State) (es : List Event), exec (.tick 70224) s = .next t ∧ t.events = s.events ++ es ∧
      t.lcdCycles = 0 ∧ t.regs.ly = s.regs.ly ∧ t.vblankCount = s.vblankCount + 1 ∧
      es.count (.raised .vblank) = 1 ∧
      es.countP Event.isPresent = (if s.config.displayAttached then 1 else 0) ∧
      es.count .hdmaTick = (if s.hdmaActive then 144 else 0) ∧
      es.count (.raised .lcdc) =
        (if s.regs.stat.getLsbD 6 = true ∧ 1 ≤ s.regs.lyc.toNat ∧ s.regs.lyc.toNat ≤ 144 then 1 else 0)
        + (if s.regs.stat.getLsbD 3 then 144 else 0) + (if s.regs.stat.getLsbD 4 then 1 else 0)

/-- R205, R224, R242 and source property P5: with `LCDC[7] = 0` any `TICK` raises nothing, leaves `STAT`, the
framebuffer, the sprite counters and the request bits as they were, and still advances `LY` by one a line; its
outputs are pulses and presentations of the unchanged framebuffer only. The spec marks R205 derived; the unchanged
`STAT` is its decision D4. -/
def Obligations.DisabledLcdOnlyCounts : Prop :=
  ∀ (s : State) (n : Nat), s.regs.lcdc.getLsbD 7 = false →
    ∃ (t : State) (es : List Event), exec (.tick n) s = .next t ∧ t.events = s.events ++ es ∧
      t.regs.stat = s.regs.stat ∧ t.frame = s.frame ∧ t.spritesDrawn = s.spritesDrawn ∧ t.requests = s.requests ∧
      (456 ≤ s.lcdCycles + n → t.regs.ly.toNat = (s.regs.ly.toNat + (s.lcdCycles + n) / 456) % 154) ∧
      ∀ e ∈ es, (e = .hdmaTick ∧ s.hdmaActive = true) ∨
        (e = .present s.frame.cells ∧ s.config.displayAttached = true)

/-- R201: after an enabled `LINE` that started with `LY` in 0..153, `STAT.MODE` is 1 exactly when `LY` now reads
145..153 or 0: the mode lags `LY` by one line. The spec marks R201 derived. -/
def Obligations.ModeLagsLyByOneLine : Prop :=
  ∀ s : State, s.regs.lcdc.getLsbD 7 = true → s.regs.ly.toNat < 154 →
    ∃ t, exec .line s = .next t ∧
      (t.regs.stat.toNat % 4 = 1 ↔ 145 ≤ t.regs.ly.toNat ∨ t.regs.ly.toNat = 0) ∧
      (t.regs.stat.toNat % 4 = 0 ↔ 1 ≤ t.regs.ly.toNat ∧ t.regs.ly.toNat ≤ 144)

/-! ### The whole block -/

/-- R226, R231: every operation only adds outputs; and "each of the two request bits is set iff it was set before
or" the operation raised it. That a second raise changes nothing the spec marks derived; the list of outputs is log
6. -/
def Obligations.RequestBitsRecordRaises : Prop :=
  ∀ (i : Instr) (s t : State), exec i s = .next t →
    ∃ es : List Event, t.events = s.events ++ es ∧
      (t.requests.vblank = true ↔ s.requests.vblank = true ∨ .raised .vblank ∈ es) ∧
      (t.requests.lcdc = true ↔ s.requests.lcdc = true ∨ .raised .lcdc ∈ es)

/-- R6, R226: the block's part of the host's interrupt-request register, for all positions `IRQ_BIT_VBLANK` and
`IRQ_BIT_LCDC`: a raise sets the bit at its position and no other; with different positions each bit is its request,
and consuming a request clears its bit and no other; every other bit is 0. The positions are open (D24), and the
register holds only the two bits here, log 7. -/
def Obligations.RequestRegisterBits : Prop :=
  ∀ (s : State) (k : Irq),
    (∀ n, (s.raise k).requestBits.testBit n =
      (s.requestBits.testBit n || decide (n = irqPosition s.config.irqBits k))) ∧
    (∀ n, n ≠ s.config.irqBits.vblank → n ≠ s.config.irqBits.lcdc → s.requestBits.testBit n = false) ∧
    (s.config.irqBits.vblank ≠ s.config.irqBits.lcdc →
      s.requestBits.testBit (irqPosition s.config.irqBits k) = s.requests.get k ∧
      ∃ t, s.hostStep (.clearRequest k) = .next t ∧
        ∀ n, t.requestBits.testBit n =
          (s.requestBits.testBit n && decide (n ≠ irqPosition s.config.irqBits k)))

/-- R8, R20, R37, R38, R45, R66, R109: no operation writes VRAM, OAM, an input or any register but `LY` and `STAT`,
whose bits 7..3 it keeps, nor the host's list; and only `TICK`, `LINE` and `RESET` write those two. The host's list
is the model's, log 1. -/
def Obligations.OnlyLyAndStatAreWritten : Prop :=
  ∀ (i : Instr) (s t : State), exec i s = .next t →
    t.vram = s.vram ∧ t.oam = s.oam ∧ t.config = s.config ∧ t.hdmaActive = s.hdmaActive ∧ t.pending = s.pending ∧
    (∀ r, r ≠ .ly → r ≠ .stat → t.regs.get r = s.regs.get r) ∧
    t.regs.stat.toNat / 8 = s.regs.stat.toNat / 8 ∧
    (writesScanline i = false → t.regs = s.regs)

/-- R32: the palette store "persists": only the five palette writes, `PAL.INIT` and `RESET` change it. `PAL.INIT` is
the part of reset that R250 invokes; issued by itself, log 1. -/
def Obligations.PalettesPersist : Prop :=
  ∀ (i : Instr) (s t : State), exec i s = .next t → writesPalettes i = false → t.pal = s.pal

/-- R34, R36, R37, R38, R40, R41, R154: the invariant of the block (legal tags, counters at most 10, `lcd_cycles`
below 456, memories in canonical form, CGB colours coherent with their RAM) is kept by every step, of the block and
of the host. The spec marks R34 and R154 derived; the canonical form is log 4, the host's steps log 11. -/
def Obligations.StepKeepsInvariant : Prop :=
  ∀ s t : State, s.Inv → step s = .next t → t.Inv

/-- R251 to R254: the invariant holds after reset, for every value of every parameter, every register contents and
every contents of VRAM and OAM; in particular at `State.reset`. The zeros after reset are the spec's decisions D16
to D19; `State.reset`'s instance is logs 2 to 6. -/
def Obligations.ResetMeetsInvariant : Prop :=
  (∀ (c : Config) (regs : LcdRegs) (vram oam : Memory), Memory.wf vramSize vram → Memory.wf oamSize oam →
    (State.resetWith c regs vram oam).Inv) ∧ State.reset.Inv

/-- R250, R251, R254: `RESET` zeroes the framebuffer, the sprite counters, `lcd_cycles`, `vblank_count`, `LY` and
`STAT[1:0]`, keeps `STAT[7:2]` and the other registers, leaves the palette store as `PAL.INIT` does, raises and
presents nothing, and changes nothing else. The zeros are the spec's decisions D16 to D19; a `RESET` after the first
is log 1. -/
def Obligations.ResetOperationStartsBlock : Prop :=
  ∀ s : State, ∃ t p, exec .reset s = .next t ∧ exec .palInit s = .next p ∧
    t = { s with
      regs := { s.regs with ly := 0, stat := t.regs.stat }
      pal := p.pal, frame := t.frame, spritesDrawn := t.spritesDrawn, lcdCycles := 0, vblankCount := 0 } ∧
    t.regs.stat.toNat = s.regs.stat.toNat / 4 * 4 ∧
    (∀ (x : Fin 160) (y : Fin 144), t.frame.get x y = 0) ∧
    ∀ l : Fin 144, t.spritesDrawn[l] = 0

/-- R251 to R255: the state after reset, for every value of every parameter: the scanline position, the mode, the
counters, the framebuffer, no output and no request, the registers and memories given, and the palettes by mode: CGB
for every fill and every object RAM (0xFFC53A for the fill 0x1F), DMG for every table and checksum. The zeros, the
fill, the object RAM and the seed are the spec's decisions D16 to D19, D13, D14, D12; that no request is pending is the
model's choice, log 6. -/
def Obligations.ResetStateValues : Prop :=
  ∀ (c : Config) (regs : LcdRegs) (vram oam : Memory),
    let s := State.resetWith c regs vram oam
    s.regs.ly = 0 ∧ s.regs.stat.toNat % 4 = 0 ∧ s.lcdCycles = 0 ∧ s.vblankCount = 0 ∧ s.events = [] ∧
    (∀ (x : Fin 160) (y : Fin 144), s.frame.get x y = 0) ∧ (∀ l : Fin 144, s.spritesDrawn[l] = 0) ∧
    (∀ r, r ≠ .ly → r ≠ .stat → s.regs.get r = regs.get r) ∧
    s.regs.stat.toNat / 4 = regs.stat.toNat / 4 ∧ s.vram = vram ∧ s.oam = oam ∧
    s.requests = ⟨false, false⟩ ∧
    (c.mode = .cgb →
      (∀ a : Fin 64, s.pal.bgRam[a] = c.cgbBgRamFill ∧ s.pal.objRam[a] = c.objRamReset[a]) ∧
      ∀ (i : Fin 8) (j : Fin 4),
        s.pal.bg[i][j] = resolve555 (c.cgbBgRamFill ++ c.cgbBgRamFill) ∧
        (c.cgbBgRamFill = 0x1F → s.pal.bg[i][j] = 0xFFC53A) ∧
        s.pal.obj[i][j] =
          resolve555 (c.objRamReset[8 * i.val + 2 * j.val + 1] ++ c.objRamReset[8 * i.val + 2 * j.val])) ∧
    (c.mode = .dmg →
      s.pal.bg[0] = (c.dmgTable[c.checksum.toNat]'c.checksum.isLt).bg ∧
      s.pal.obj[0] = (c.dmgTable[c.checksum.toNat]'c.checksum.isLt).obj0 ∧
      s.pal.obj[1] = (c.dmgTable[c.checksum.toNat]'c.checksum.isLt).obj1)

/-- R37, R109: "in DMG mode no rule reads" VRAM bank 1: two states that differ only in bytes of bank 1 stay so
through any `TICK`, and their framebuffers, registers and outputs agree. The spec marks that clause of R37 derived. -/
def Obligations.DmgTickIgnoresBank1 : Prop :=
  ∀ (s : State) (vram : Memory) (n : Nat) (t : State), s.config.mode = .dmg →
    (∀ a, a < 8192 → vram.read a = s.vram.read a) → exec (.tick n) s = .next t →
    exec (.tick n) { s with vram := vram } = .next { t with vram := vram }

/-- R25, R44, R267: no operation reads `BGP`, `OBP0` or `OBP1`: with other values in them every operation does the
same, and they keep those values. The spec's decision D30. -/
def Obligations.PaletteRegistersAreNotRead : Prop :=
  ∀ (i : Instr) (s t : State) (b o₀ o₁ : Byte), exec i s = .next t →
    exec i { s with regs := { s.regs with bgp := b, obp0 := o₀, obp1 := o₁ } } =
      .next { t with regs := { t.regs with bgp := b, obp0 := o₀, obp1 := o₁ } }

/-! ### The host's steps -/

/-- R20, R73, R82: the host may write any value into any of the eleven registers and reads back the latest value;
nothing else changes. The list of host steps is the model's, log 1. -/
def Obligations.HostAccessesRegisters : Prop :=
  ∀ (s : State) (r : LcdReg) (v : Byte) (rest : List Request),
    (s.pending = .host (.writeReg r v) :: rest →
      ∃ t, step s = .next t ∧ t = { s with pending := rest, regs := t.regs } ∧ t.regs.get r = v ∧
        ∀ q, q ≠ r → t.regs.get q = s.regs.get q) ∧
    (s.pending = .host (.readReg r) :: rest →
      step s = .next { s with pending := rest, events := s.events ++ [.hostRead (s.regs.get r)] })

/-- R6, R8: `read_register` at a register's bus address, for all addresses `ADDR_*` that differ, returns the register;
"invalid register reads are treated as zero": at any other address it returns 0. The addresses are open (D2), log 7. -/
def Obligations.RegistersAtTheirAddresses : Prop :=
  ∀ s : State,
    ((∀ r q, registerAddress s.config.addresses r = registerAddress s.config.addresses q → r = q) →
      ∀ r, s.readRegister (registerAddress s.config.addresses r) = s.regs.get r) ∧
    ∀ a, (∀ r, registerAddress s.config.addresses r ≠ a) → s.readRegister a = 0

/-- R37, R38, R73, R80, R82 (the fault outside the memories is the model's, log 8): a host write to VRAM or OAM
replaces that byte and no other, a host read returns the byte, in every mode and state of the block; an offset outside
the memory faults. -/
def Obligations.HostAccessesVramAndOam : Prop :=
  ∀ (s : State) (a : Nat) (v : Byte) (rest : List Request), s.MemoryCanonical →
    (s.pending = .host (.writeVram a v) :: rest →
      (a < 16384 → ∃ t, step s = .next t ∧ t = { s with pending := rest, vram := t.vram } ∧
        ∀ b, t.vram.read b = if b = a then v else s.vram.read b) ∧
      (16384 ≤ a → step s = .fault (.noSuchVramByte a))) ∧
    (s.pending = .host (.writeOam a v) :: rest →
      (a < 160 → ∃ t, step s = .next t ∧ t = { s with pending := rest, oam := t.oam } ∧
        ∀ b, t.oam.read b = if b = a then v else s.oam.read b) ∧
      (160 ≤ a → step s = .fault (.noSuchOamByte a))) ∧
    (s.pending = .host (.readVram a) :: rest →
      (a < 16384 → step s = .next { s with pending := rest, events := s.events ++ [.hostRead (s.vram.read a)] }) ∧
      (16384 ≤ a → step s = .fault (.noSuchVramByte a))) ∧
    (s.pending = .host (.readOam a) :: rest →
      (a < 160 → step s = .next { s with pending := rest, events := s.events ++ [.hostRead (s.oam.read a)] }) ∧
      (160 ≤ a → step s = .fault (.noSuchOamByte a)))

/-- R45, R82, R226: the host sets `hdma_active` and consumes a request, which clears that bit and no other; nothing
else changes. The list of host steps is the model's, logs 1 and 11. -/
def Obligations.HostControlsInputsAndRequests : Prop :=
  ∀ (s : State) (b : Bool) (rest : List Request),
    (s.pending = .host (.setHdma b) :: rest → step s = .next { s with pending := rest, hdmaActive := b }) ∧
    (s.pending = .host (.clearRequest .vblank) :: rest →
      step s = .next { s with pending := rest, requests := ⟨false, s.requests.lcdc⟩ }) ∧
    (s.pending = .host (.clearRequest .lcdc) :: rest →
      step s = .next { s with pending := rest, requests := ⟨s.requests.vblank, false⟩ })
end

