-- ==== Sys2Proof/Laws/Decode.lean ====
section
/-! SUPPORT. Reading one field of a command: what the encoder writes is read back, and what was read is what stood
there. -/

namespace Sys2Proof

theorem readBits_toNat (f : Field) {w : Nat} (v : BitVec w) : readBits f w (v.toNat : Int) = .ok v := by
  have := v.isLt
  unfold readBits
  rw [if_pos ⟨by omega, by simpa using this⟩]
  simp

theorem readBool_boolField (f : Field) (b : Bool) : readBool f (boolField b) = .ok b := by
  cases b <;> rfl

theorem readNat_natCast (f : Field) (n : Nat) : readNat f (n : Int) = .ok n := by
  simp [readNat]

theorem palette_eta (p : Palette) : #v[p[0], p[1], p[2], p[3]] = p := by
  ext i hi
  match i, hi with
  | 0, _ | 1, _ | 2, _ | 3, _ => rfl

theorem eq_of_readBits {f : Field} {w : Nat} {v : Int} {b : BitVec w} (h : readBits f w v = .ok b) :
    (b.toNat : Int) = v := by
  unfold readBits at h
  split at h
  · rename_i hv
    injection h with h
    subst h
    simp [BitVec.toNat_ofNat, Nat.mod_eq_of_lt hv.2, hv.1]
  · cases h

theorem eq_of_readBool {f : Field} {v : Int} {b : Bool} (h : readBool f v = .ok b) : boolField b = v := by
  unfold readBool at h
  split_ifs at h <;> simp_all [boolField]

theorem eq_of_readNat {f : Field} {v : Int} {n : Nat} (h : readNat f v = .ok n) : (n : Int) = v := by
  unfold readNat at h
  split_ifs at h
  injection h with h
  subst h
  simp_all

/-- A chain of reads that answers answered at every link. -/
theorem Except.bind_ok {α β : Type} {x : Except DecodeError α} {k : α → Except DecodeError β} {r : β}
    (h : (x >>= k) = .ok r) : ∃ a, x = .ok a ∧ k a = .ok r := by
  cases x with
  | error e => cases h
  | ok a => exact ⟨a, rfl, h⟩

end Sys2Proof
end

