-- ==== Sys2Proof/Laws/Frame.lean ====
section
/-! SUPPORT. The framebuffer: cells, plotting, and what the drawing of one tile row leaves in every cell. -/

namespace Sys2Proof.Machine

theorem Frame.ext_get {f g : Frame} (h : ∀ x y, f.get x y = g.get x y) : f = g :=
  Vector.ext fun y hy => Vector.ext fun x hx => h ⟨x, hx⟩ ⟨y, hy⟩

/-- What a cell holds after another was replaced. -/
theorem Frame.get_put (f : Frame) (x x' : Fin 160) (y y' : Fin 144) (c : Cell) :
    (f.put x y c).get x' y' = if x' = x ∧ y' = y then c else f.get x' y' := by
  obtain ⟨x, hx⟩ := x
  obtain ⟨y, hy⟩ := y
  obtain ⟨x', hx'⟩ := x'
  obtain ⟨y', hy'⟩ := y'
  simp only [Frame.get, Frame.put, Fin.getElem_fin, Vector.getElem_set, Fin.mk.injEq]
  by_cases h : y = y'
  · subst h
    by_cases h2 : x = x'
    · simp [h2]
    · simp [h2, Ne.symm h2]
  · simp [h, Ne.symm h]

theorem Frame.get_plot (f : Frame) (x x' : Fin 160) (y y' : Fin 144) (q : Tag) (c : Color) :
    (f.plot x y q c).get x' y' = if x' = x ∧ y' = y then plotCell (f.get x y) q c else f.get x' y' :=
  Frame.get_put f x x' y y' _

@[simp] theorem Frame.get_cleared (x : Fin 160) (y : Fin 144) : Frame.cleared.get x y = 0 := by
  simp [Frame.cleared, Frame.get]

@[simp] theorem cellTag_mkCell (q : Tag) (c : Color) : cellTag (mkCell q c) = q.setWidth 8 := by
  simp only [cellTag, mkCell]
  ext i hi
  simp [show 24 + i < 32 by omega]

@[simp] theorem cellRgb_mkCell (q : Tag) (c : Color) : cellRgb (mkCell q c) = c := by
  simp only [cellRgb, mkCell]
  ext i hi
  simp [show i < 32 by omega, hi, BitVec.getLsbD_eq_getElem]

/-- An entry of a list made of blocks of one length. -/
theorem getElem?_flatMap_blocks {α β : Type} {f : α → List β} {m : Nat} (hf : ∀ a, (f a).length = m) (l : List α)
    (i j : Nat) (hj : j < m) : (l.flatMap f)[i * m + j]? = l[i]?.bind fun a => (f a)[j]? := by
  induction l generalizing i with
  | nil => simp
  | cons a l ih =>
    rw [List.flatMap_cons]
    cases i with
    | zero => simp [List.getElem?_append, hf, hj]
    | succ i =>
      rw [List.getElem?_append_right (by rw [hf, Nat.succ_mul]; omega), hf, Nat.succ_mul,
        show i * m + m + j - m = i * m + j by omega, ih, List.getElem?_cons_succ]

/-- Cell (x, y) of the payload is at index `y*160 + x`. -/
theorem Frame.cells_getElem? (f : Frame) (x : Fin 160) (y : Fin 144) :
    f.cells[y.val * 160 + x.val]? = some (f.get x y) := by
  rw [Frame.cells, getElem?_flatMap_blocks (m := 160) (by simp) _ _ _ x.isLt]
  simp [Frame.get]

@[simp] theorem Frame.cells_length (f : Frame) : f.cells.length = 23040 := by
  simp [Frame.cells, List.length_flatMap]

@[simp] theorem payloadBytes_length (cells : List Cell) : (payloadBytes cells).length = 4 * cells.length := by
  have h : (fun c : Cell => (cellBytes c).length) = fun _ => 4 := rfl
  rw [payloadBytes, List.length_flatMap, h, List.map_const', List.sum_replicate, smul_eq_mul, Nat.mul_comm]

/-- Byte `k` of entry `i` of a payload. -/
theorem payloadBytes_getElem? (cells : List Cell) (i k : Nat) (hk : k < 4) :
    (payloadBytes cells)[4 * i + k]? = cells[i]?.bind fun c => (cellBytes c)[k]? := by
  rw [payloadBytes, Nat.mul_comm 4 i, getElem?_flatMap_blocks (m := 4) (fun _ => rfl) _ _ _ hk]

/-- A bit of a colour made of its red, green and blue bytes. -/
theorem getLsbD_rgb (r g b : Byte) (n : Nat) : BitVec.getLsbD (w := 24) (r ++ g ++ b) n =
    if n < 8 then b.getLsbD n else if n - 8 < 8 then g.getLsbD (n - 8) else r.getLsbD (n - 8 - 8) := by
  show BitVec.getLsbD (w := 8 + 8 + 8) (r ++ g ++ b) n = _
  rw [BitVec.getLsbD_append, BitVec.getLsbD_append]

/-- The bytes of a plotted cell: blue, green, red, tag. -/
@[simp] theorem cellBytes_mkCell (q : Tag) (r g b : Byte) :
    cellBytes (mkCell q (r ++ g ++ b)) = [b, g, r, q.setWidth 8] := by
  simp only [cellBytes, mkCell, List.cons.injEq, and_true]
  refine ⟨?_, ?_, ?_, ?_⟩ <;> ext i hi <;>
    simp only [BitVec.getElem_extractLsb', BitVec.getLsbD_or, BitVec.getLsbD_shiftLeft, BitVec.getLsbD_setWidth,
      getLsbD_rgb]
  · simp [hi, show i < 32 by omega, show i < 24 by omega, BitVec.getLsbD_eq_getElem]
  · simp [hi, show 8 + i < 32 by omega, show 8 + i < 24 by omega, BitVec.getLsbD_eq_getElem]
  · simp [hi, show 16 + i < 32 by omega, show 16 + i < 24 by omega, show ¬(16 + i < 8) by omega,
      show ¬(16 + i - 8 < 8) by omega, show 16 + i - 8 - 8 = i by omega, BitVec.getLsbD_eq_getElem]
  · simp [show 24 + i < 32 by omega, show i < 32 by omega, show ¬(24 + i < 8) by omega,
      show ¬(24 + i - 8 < 8) by omega, show 24 + i - 8 - 8 = 8 + i by omega]

@[simp] theorem cellTag_zero : cellTag 0 = 0 := by decide

/-- A plot leaves the old cell or the new one. -/
theorem plotCell_cases (old : Cell) (q : Tag) (c : Color) : plotCell old q c = old ∨ plotCell old q c = mkCell q c := by
  unfold plotCell
  split
  · exact .inr rfl
  · exact .inl rfl

/-- One turn of the loop of `DRAW.TILE`, cell by cell. -/
theorem Frame.get_drawPixel (t : TileDraw) (pix : PixelRow) (ly : Fin 144) (f : Frame) (px : Fin 8)
    (x : Fin 160) (y : Fin 144) :
    (f.drawPixel t pix ly px).get x y =
      if y = ly ∧ (x.val : Int) = t.sx + px.val ∧ ¬(t.sprite = true ∧ pix[px] = 0) then
        plotCell (f.get x y) (plotPriority t.base pix[px]) (paletteColor t.pal pix[px])
      else f.get x y := by
  unfold Frame.drawPixel
  split_ifs with h1 h2 h3 h4 h5
  · simp only [Bool.and_eq_true, beq_iff_eq] at h2
    exact absurd h2 h3.2.2
  · rfl
  · rw [Frame.get_plot, if_pos ⟨Fin.ext (by simp only; omega), h4.1⟩, h4.1,
      show (⟨(t.sx + px.val).toNat, by omega⟩ : Fin 160) = x from Fin.ext (by simp only; omega)]
  · rw [Frame.get_plot, if_neg]
    rintro ⟨hx, hy⟩
    apply h4
    refine ⟨hy, ?_, by simpa using h2⟩
    rw [hx]
    simp only
    omega
  · exact absurd ⟨by omega, by omega⟩ h1
  · rfl

/-- The turns of the loop over distinct columns, at the cell that column `px` of the tile covers. -/
theorem Frame.get_foldl_drawPixel_hit (t : TileDraw) (pix : PixelRow) (ly : Fin 144) (l : List (Fin 8)) (hl : l.Nodup)
    (f : Frame) (x : Fin 160) (px : Fin 8) (hx : (x.val : Int) = t.sx + px.val) :
    (l.foldl (Frame.drawPixel t pix ly) f).get x ly =
      if px ∈ l ∧ ¬(t.sprite = true ∧ pix[px] = 0) then
        plotCell (f.get x ly) (plotPriority t.base pix[px]) (paletteColor t.pal pix[px])
      else f.get x ly := by
  induction l generalizing f with
  | nil => simp
  | cons p l ih =>
    rw [List.nodup_cons] at hl
    rw [List.foldl_cons, ih hl.2, Frame.get_drawPixel]
    by_cases hp : px = p
    · subst hp
      simp only [hl.1, false_and, if_false, List.mem_cons, true_or, true_and, hx]
    · have hne : ¬ (x.val : Int) = t.sx + p.val := fun hc => hp (Fin.ext (by omega))
      simp only [hne, false_and, and_false, if_false, List.mem_cons, hp, false_or]

/-- The turns of the loop leave a cell alone that no column of the tile covers. -/
theorem Frame.get_foldl_drawPixel_miss (t : TileDraw) (pix : PixelRow) (ly : Fin 144) (l : List (Fin 8))
    (f : Frame) (x : Fin 160) (y : Fin 144)
    (h : ¬(y = ly ∧ 0 ≤ (x.val : Int) - t.sx ∧ (x.val : Int) - t.sx < 8)) :
    (l.foldl (Frame.drawPixel t pix ly) f).get x y = f.get x y := by
  induction l generalizing f with
  | nil => rfl
  | cons p l ih =>
    rw [List.foldl_cons, ih, Frame.get_drawPixel, if_neg]
    rintro ⟨hy, hx, -⟩
    exact h ⟨hy, by omega, by omega⟩

theorem tileColumns_nodup : tileColumns.Nodup := by decide

theorem mem_tileColumns (p : Fin 8) : p ∈ tileColumns := by revert p; decide

/-- What `DRAW.TILE` leaves in every cell: the cells of line `ly` under the eight columns of the tile are plotted
(but for a sprite's transparent pixels) when the line crosses the tile, and every other cell is as before. -/
theorem Frame.get_drawTile (vram : Memory) (t : TileDraw) (ly : Fin 144) (f : Frame) (x : Fin 160) (y : Fin 144) :
    (f.drawTile vram t ly).get x y =
      if h : (y = ly ∧ 0 ≤ (x.val : Int) - t.sx ∧ (x.val : Int) - t.sx < 8) ∧
          0 ≤ (ly.val : Int) - t.sy ∧ (ly.val : Int) - t.sy ≤ 7 then
        let px : Fin 8 := ⟨((x.val : Int) - t.sx).toNat, by omega⟩
        let pix := fetchRow vram t.bank t.tileIndex (BitVec.ofInt 3 ((ly.val : Int) - t.sy)) t.flipX t.flipY
        if t.sprite = true ∧ pix[px] = 0 then f.get x y
        else plotCell (f.get x y) (plotPriority t.base pix[px]) (paletteColor t.pal pix[px])
      else f.get x y := by
  unfold Frame.drawTile
  dsimp only
  by_cases hr : 0 ≤ (ly.val : Int) - t.sy ∧ (ly.val : Int) - t.sy ≤ 7
  · rw [if_pos hr]
    by_cases hx : y = ly ∧ 0 ≤ (x.val : Int) - t.sx ∧ (x.val : Int) - t.sx < 8
    · rw [dif_pos ⟨hx, hr⟩]
      obtain ⟨rfl, h0, h8⟩ := hx
      rw [Frame.get_foldl_drawPixel_hit _ _ _ _ tileColumns_nodup _ _
        ⟨((x.val : Int) - t.sx).toNat, by omega⟩ (by simp only; omega)]
      simp only [mem_tileColumns, true_and]
      split_ifs <;> rfl
    · rw [Frame.get_foldl_drawPixel_miss _ _ _ _ _ _ _ hx, dif_neg fun h => hx h.1]
  · rw [if_neg hr, dif_neg fun h => hr h.2]

/-- The cell under column `px` and row `row` of a tile. -/
theorem Frame.get_drawTile_at (vram : Memory) (t : TileDraw) (ly : Fin 144) (f : Frame) (x : Fin 160) (px row : Fin 8)
    (hx : (x.val : Int) = t.sx + px.val) (hy : (ly.val : Int) = t.sy + row.val) :
    (f.drawTile vram t ly).get x ly =
      if t.sprite = true ∧
          (fetchRow vram t.bank t.tileIndex (BitVec.ofNat 3 row.val) t.flipX t.flipY)[px] = 0 then f.get x ly
      else
        plotCell (f.get x ly)
          (plotPriority t.base (fetchRow vram t.bank t.tileIndex (BitVec.ofNat 3 row.val) t.flipX t.flipY)[px])
          (paletteColor t.pal (fetchRow vram t.bank t.tileIndex (BitVec.ofNat 3 row.val) t.flipX t.flipY)[px]) := by
  have hr : (ly.val : Int) - t.sy = (row.val : Nat) := by omega
  unfold Frame.drawTile
  dsimp only
  rw [if_pos ⟨by omega, by omega⟩, Frame.get_foldl_drawPixel_hit _ _ _ _ tileColumns_nodup _ _ px hx, hr,
    BitVec.ofInt_natCast]
  simp only [mem_tileColumns, true_and]
  split_ifs <;> rfl

end Sys2Proof.Machine
end

