-- ==== Sys2Proof/Laws/State.lean ====
section
/-! SUPPORT. One lemma per field of the state and per shared update: what the update leaves alone and what it writes, so
that no proof has to unfold a record update. -/

namespace Sys2Proof.Machine

/-- Two states are equal when every field is. -/
theorem State.ext_fields {s t : State} (config : s.config = t.config) (regs : s.regs = t.regs) (pal : s.pal = t.pal)
    (spritesDrawn : s.spritesDrawn = t.spritesDrawn) (vram : s.vram = t.vram) (oam : s.oam = t.oam)
    (frame : s.frame = t.frame) (lcdCycles : s.lcdCycles = t.lcdCycles) (vblankCount : s.vblankCount = t.vblankCount)
    (hdmaActive : s.hdmaActive = t.hdmaActive) (requests : s.requests = t.requests) (events : s.events = t.events)
    (pending : s.pending = t.pending) : s = t := by
  cases s
  cases t
  simp_all

/-! ### Registers -/

@[simp] theorem State.setReg_config (s : State) (r : LcdReg) (v : Byte) : (s.setReg r v).config = s.config := rfl
@[simp] theorem State.setReg_pal (s : State) (r : LcdReg) (v : Byte) : (s.setReg r v).pal = s.pal := rfl
@[simp] theorem State.setReg_spritesDrawn (s : State) (r : LcdReg) (v : Byte) : (s.setReg r v).spritesDrawn = s.spritesDrawn := rfl
@[simp] theorem State.setReg_vram (s : State) (r : LcdReg) (v : Byte) : (s.setReg r v).vram = s.vram := rfl
@[simp] theorem State.setReg_oam (s : State) (r : LcdReg) (v : Byte) : (s.setReg r v).oam = s.oam := rfl
@[simp] theorem State.setReg_frame (s : State) (r : LcdReg) (v : Byte) : (s.setReg r v).frame = s.frame := rfl
@[simp] theorem State.setReg_lcdCycles (s : State) (r : LcdReg) (v : Byte) : (s.setReg r v).lcdCycles = s.lcdCycles := rfl
@[simp] theorem State.setReg_vblankCount (s : State) (r : LcdReg) (v : Byte) : (s.setReg r v).vblankCount = s.vblankCount := rfl
@[simp] theorem State.setReg_hdmaActive (s : State) (r : LcdReg) (v : Byte) : (s.setReg r v).hdmaActive = s.hdmaActive := rfl
@[simp] theorem State.setReg_requests (s : State) (r : LcdReg) (v : Byte) : (s.setReg r v).requests = s.requests := rfl
@[simp] theorem State.setReg_events (s : State) (r : LcdReg) (v : Byte) : (s.setReg r v).events = s.events := rfl
@[simp] theorem State.setReg_pending (s : State) (r : LcdReg) (v : Byte) : (s.setReg r v).pending = s.pending := rfl

@[simp] theorem State.setReg_regs (s : State) (r : LcdReg) (v : Byte) : (s.setReg r v).regs = s.regs.set r v := rfl
@[simp] theorem LcdRegs.get_set_same (g : LcdRegs) (r : LcdReg) (v : Byte) : (g.set r v).get r = v := by
  cases r <;> rfl
theorem LcdRegs.get_set_of_ne (g : LcdRegs) (r q : LcdReg) (v : Byte) (h : q ≠ r) :
    (g.set r v).get q = g.get q := by
  cases r <;> cases q <;> first | rfl | exact absurd rfl h

@[simp] theorem LcdRegs.set_ly_lcdc (g : LcdRegs) (v : Byte) : (g.set .ly v).lcdc = g.lcdc := rfl
@[simp] theorem LcdRegs.set_ly_stat (g : LcdRegs) (v : Byte) : (g.set .ly v).stat = g.stat := rfl
@[simp] theorem LcdRegs.set_ly_scx (g : LcdRegs) (v : Byte) : (g.set .ly v).scx = g.scx := rfl
@[simp] theorem LcdRegs.set_ly_scy (g : LcdRegs) (v : Byte) : (g.set .ly v).scy = g.scy := rfl
@[simp] theorem LcdRegs.set_ly_wx (g : LcdRegs) (v : Byte) : (g.set .ly v).wx = g.wx := rfl
@[simp] theorem LcdRegs.set_ly_wy (g : LcdRegs) (v : Byte) : (g.set .ly v).wy = g.wy := rfl
@[simp] theorem LcdRegs.set_ly_ly (g : LcdRegs) (v : Byte) : (g.set .ly v).ly = v := rfl
@[simp] theorem LcdRegs.set_ly_lyc (g : LcdRegs) (v : Byte) : (g.set .ly v).lyc = g.lyc := rfl
@[simp] theorem LcdRegs.set_ly_bgp (g : LcdRegs) (v : Byte) : (g.set .ly v).bgp = g.bgp := rfl
@[simp] theorem LcdRegs.set_ly_obp0 (g : LcdRegs) (v : Byte) : (g.set .ly v).obp0 = g.obp0 := rfl
@[simp] theorem LcdRegs.set_ly_obp1 (g : LcdRegs) (v : Byte) : (g.set .ly v).obp1 = g.obp1 := rfl

@[simp] theorem LcdRegs.set_stat_lcdc (g : LcdRegs) (v : Byte) : (g.set .stat v).lcdc = g.lcdc := rfl
@[simp] theorem LcdRegs.set_stat_stat (g : LcdRegs) (v : Byte) : (g.set .stat v).stat = v := rfl
@[simp] theorem LcdRegs.set_stat_scx (g : LcdRegs) (v : Byte) : (g.set .stat v).scx = g.scx := rfl
@[simp] theorem LcdRegs.set_stat_scy (g : LcdRegs) (v : Byte) : (g.set .stat v).scy = g.scy := rfl
@[simp] theorem LcdRegs.set_stat_wx (g : LcdRegs) (v : Byte) : (g.set .stat v).wx = g.wx := rfl
@[simp] theorem LcdRegs.set_stat_wy (g : LcdRegs) (v : Byte) : (g.set .stat v).wy = g.wy := rfl
@[simp] theorem LcdRegs.set_stat_ly (g : LcdRegs) (v : Byte) : (g.set .stat v).ly = g.ly := rfl
@[simp] theorem LcdRegs.set_stat_lyc (g : LcdRegs) (v : Byte) : (g.set .stat v).lyc = g.lyc := rfl
@[simp] theorem LcdRegs.set_stat_bgp (g : LcdRegs) (v : Byte) : (g.set .stat v).bgp = g.bgp := rfl
@[simp] theorem LcdRegs.set_stat_obp0 (g : LcdRegs) (v : Byte) : (g.set .stat v).obp0 = g.obp0 := rfl
@[simp] theorem LcdRegs.set_stat_obp1 (g : LcdRegs) (v : Byte) : (g.set .stat v).obp1 = g.obp1 := rfl

/-! ### Registers by bus address -/

@[simp] theorem mem_lcdRegList (r : LcdReg) : r ∈ lcdRegList := by cases r <;> decide

/-- With the addresses all different, the register at the address of `r` is `r`. -/
theorem State.regAt_registerAddress (s : State) (r : LcdReg)
    (distinct : ∀ q, registerAddress s.config.addresses q = registerAddress s.config.addresses r → q = r) :
    s.regAt (registerAddress s.config.addresses r) = some r := by
  cases h : s.regAt (registerAddress s.config.addresses r) with
  | none => simpa using List.find?_eq_none.mp h r (mem_lcdRegList r)
  | some q => rw [distinct q (by simpa using List.find?_some h)]

/-- An address of no register finds none. -/
theorem State.regAt_of_ne (s : State) (a : Nat) (h : ∀ r, registerAddress s.config.addresses r ≠ a) :
    s.regAt a = none :=
  List.find?_eq_none.mpr fun r _ => by simpa using h r

/-! ### Outputs and requests -/

@[simp] theorem Requests.get_set (q : Requests) (k j : Irq) : (q.set k).get j = (q.get j || decide (j = k)) := by
  cases k <;> cases j <;> simp [Requests.set, Requests.get]

@[simp] theorem Requests.get_clear (q : Requests) (k j : Irq) : (q.clear k).get j = (q.get j && decide (j ≠ k)) := by
  cases k <;> cases j <;> simp [Requests.clear, Requests.get]

/-- The bits of the interrupt-request register: those at the positions of the requests that are set. -/
theorem State.testBit_requestBits (s : State) (n : Nat) : s.requestBits.testBit n =
    ((s.requests.vblank && decide (s.config.irqBits.vblank = n)) ||
      (s.requests.lcdc && decide (s.config.irqBits.lcdc = n))) := by
  unfold State.requestBits
  rw [Nat.testBit_lor]
  cases s.requests.vblank <;> cases s.requests.lcdc <;> simp [Nat.testBit_two_pow]

@[simp] theorem State.emit_config (s : State) (e : Event) : (s.emit e).config = s.config := rfl
@[simp] theorem State.emit_regs (s : State) (e : Event) : (s.emit e).regs = s.regs := rfl
@[simp] theorem State.emit_pal (s : State) (e : Event) : (s.emit e).pal = s.pal := rfl
@[simp] theorem State.emit_spritesDrawn (s : State) (e : Event) : (s.emit e).spritesDrawn = s.spritesDrawn := rfl
@[simp] theorem State.emit_vram (s : State) (e : Event) : (s.emit e).vram = s.vram := rfl
@[simp] theorem State.emit_oam (s : State) (e : Event) : (s.emit e).oam = s.oam := rfl
@[simp] theorem State.emit_frame (s : State) (e : Event) : (s.emit e).frame = s.frame := rfl
@[simp] theorem State.emit_lcdCycles (s : State) (e : Event) : (s.emit e).lcdCycles = s.lcdCycles := rfl
@[simp] theorem State.emit_vblankCount (s : State) (e : Event) : (s.emit e).vblankCount = s.vblankCount := rfl
@[simp] theorem State.emit_hdmaActive (s : State) (e : Event) : (s.emit e).hdmaActive = s.hdmaActive := rfl
@[simp] theorem State.emit_requests (s : State) (e : Event) : (s.emit e).requests = s.requests := rfl
@[simp] theorem State.emit_pending (s : State) (e : Event) : (s.emit e).pending = s.pending := rfl

@[simp] theorem State.emit_events (s : State) (e : Event) : (s.emit e).events = s.events ++ [e] := rfl

@[simp] theorem State.emitIf_config (s : State) (b : Bool) (e : Event) : (s.emitIf b e).config = s.config := by
  cases b <;> rfl
@[simp] theorem State.emitIf_regs (s : State) (b : Bool) (e : Event) : (s.emitIf b e).regs = s.regs := by
  cases b <;> rfl
@[simp] theorem State.emitIf_pal (s : State) (b : Bool) (e : Event) : (s.emitIf b e).pal = s.pal := by
  cases b <;> rfl
@[simp] theorem State.emitIf_spritesDrawn (s : State) (b : Bool) (e : Event) : (s.emitIf b e).spritesDrawn = s.spritesDrawn := by
  cases b <;> rfl
@[simp] theorem State.emitIf_vram (s : State) (b : Bool) (e : Event) : (s.emitIf b e).vram = s.vram := by
  cases b <;> rfl
@[simp] theorem State.emitIf_oam (s : State) (b : Bool) (e : Event) : (s.emitIf b e).oam = s.oam := by
  cases b <;> rfl
@[simp] theorem State.emitIf_frame (s : State) (b : Bool) (e : Event) : (s.emitIf b e).frame = s.frame := by
  cases b <;> rfl
@[simp] theorem State.emitIf_lcdCycles (s : State) (b : Bool) (e : Event) : (s.emitIf b e).lcdCycles = s.lcdCycles := by
  cases b <;> rfl
@[simp] theorem State.emitIf_vblankCount (s : State) (b : Bool) (e : Event) : (s.emitIf b e).vblankCount = s.vblankCount := by
  cases b <;> rfl
@[simp] theorem State.emitIf_hdmaActive (s : State) (b : Bool) (e : Event) : (s.emitIf b e).hdmaActive = s.hdmaActive := by
  cases b <;> rfl
@[simp] theorem State.emitIf_requests (s : State) (b : Bool) (e : Event) : (s.emitIf b e).requests = s.requests := by
  cases b <;> rfl
@[simp] theorem State.emitIf_pending (s : State) (b : Bool) (e : Event) : (s.emitIf b e).pending = s.pending := by
  cases b <;> rfl

@[simp] theorem State.emitIf_events (s : State) (b : Bool) (e : Event) :
    (s.emitIf b e).events = s.events ++ (if b then [e] else []) := by
  cases b <;> simp [State.emitIf, State.emit]

@[simp] theorem State.raise_config (s : State) (k : Irq) : (s.raise k).config = s.config := rfl
@[simp] theorem State.raise_regs (s : State) (k : Irq) : (s.raise k).regs = s.regs := rfl
@[simp] theorem State.raise_pal (s : State) (k : Irq) : (s.raise k).pal = s.pal := rfl
@[simp] theorem State.raise_spritesDrawn (s : State) (k : Irq) : (s.raise k).spritesDrawn = s.spritesDrawn := rfl
@[simp] theorem State.raise_vram (s : State) (k : Irq) : (s.raise k).vram = s.vram := rfl
@[simp] theorem State.raise_oam (s : State) (k : Irq) : (s.raise k).oam = s.oam := rfl
@[simp] theorem State.raise_frame (s : State) (k : Irq) : (s.raise k).frame = s.frame := rfl
@[simp] theorem State.raise_lcdCycles (s : State) (k : Irq) : (s.raise k).lcdCycles = s.lcdCycles := rfl
@[simp] theorem State.raise_vblankCount (s : State) (k : Irq) : (s.raise k).vblankCount = s.vblankCount := rfl
@[simp] theorem State.raise_hdmaActive (s : State) (k : Irq) : (s.raise k).hdmaActive = s.hdmaActive := rfl
@[simp] theorem State.raise_pending (s : State) (k : Irq) : (s.raise k).pending = s.pending := rfl

@[simp] theorem State.raise_events (s : State) (k : Irq) : (s.raise k).events = s.events ++ [.raised k] := rfl
@[simp] theorem State.raise_requests (s : State) (k : Irq) : (s.raise k).requests = s.requests.set k := rfl

@[simp] theorem State.raiseIf_config (s : State) (b : Bool) (k : Irq) : (s.raiseIf b k).config = s.config := by
  cases b <;> rfl
@[simp] theorem State.raiseIf_regs (s : State) (b : Bool) (k : Irq) : (s.raiseIf b k).regs = s.regs := by
  cases b <;> rfl
@[simp] theorem State.raiseIf_pal (s : State) (b : Bool) (k : Irq) : (s.raiseIf b k).pal = s.pal := by
  cases b <;> rfl
@[simp] theorem State.raiseIf_spritesDrawn (s : State) (b : Bool) (k : Irq) : (s.raiseIf b k).spritesDrawn = s.spritesDrawn := by
  cases b <;> rfl
@[simp] theorem State.raiseIf_vram (s : State) (b : Bool) (k : Irq) : (s.raiseIf b k).vram = s.vram := by
  cases b <;> rfl
@[simp] theorem State.raiseIf_oam (s : State) (b : Bool) (k : Irq) : (s.raiseIf b k).oam = s.oam := by
  cases b <;> rfl
@[simp] theorem State.raiseIf_frame (s : State) (b : Bool) (k : Irq) : (s.raiseIf b k).frame = s.frame := by
  cases b <;> rfl
@[simp] theorem State.raiseIf_lcdCycles (s : State) (b : Bool) (k : Irq) : (s.raiseIf b k).lcdCycles = s.lcdCycles := by
  cases b <;> rfl
@[simp] theorem State.raiseIf_vblankCount (s : State) (b : Bool) (k : Irq) : (s.raiseIf b k).vblankCount = s.vblankCount := by
  cases b <;> rfl
@[simp] theorem State.raiseIf_hdmaActive (s : State) (b : Bool) (k : Irq) : (s.raiseIf b k).hdmaActive = s.hdmaActive := by
  cases b <;> rfl
@[simp] theorem State.raiseIf_pending (s : State) (b : Bool) (k : Irq) : (s.raiseIf b k).pending = s.pending := by
  cases b <;> rfl

@[simp] theorem State.raiseIf_events (s : State) (b : Bool) (k : Irq) :
    (s.raiseIf b k).events = s.events ++ (if b then [.raised k] else []) := by
  cases b <;> simp [State.raiseIf, State.raise, State.emit]
@[simp] theorem State.raiseIf_requests (s : State) (b : Bool) (k : Irq) :
    (s.raiseIf b k).requests = if b then s.requests.set k else s.requests := by
  cases b <;> rfl

@[simp] theorem State.present_config (s : State) : (s.present).config = s.config := by
  unfold State.present; simp
@[simp] theorem State.present_regs (s : State) : (s.present).regs = s.regs := by
  unfold State.present; simp
@[simp] theorem State.present_pal (s : State) : (s.present).pal = s.pal := by
  unfold State.present; simp
@[simp] theorem State.present_spritesDrawn (s : State) : (s.present).spritesDrawn = s.spritesDrawn := by
  unfold State.present; simp
@[simp] theorem State.present_vram (s : State) : (s.present).vram = s.vram := by
  unfold State.present; simp
@[simp] theorem State.present_oam (s : State) : (s.present).oam = s.oam := by
  unfold State.present; simp
@[simp] theorem State.present_frame (s : State) : (s.present).frame = s.frame := by
  unfold State.present; simp
@[simp] theorem State.present_lcdCycles (s : State) : (s.present).lcdCycles = s.lcdCycles := by
  unfold State.present; simp
@[simp] theorem State.present_vblankCount (s : State) : (s.present).vblankCount = s.vblankCount := by
  unfold State.present; simp
@[simp] theorem State.present_hdmaActive (s : State) : (s.present).hdmaActive = s.hdmaActive := by
  unfold State.present; simp
@[simp] theorem State.present_requests (s : State) : (s.present).requests = s.requests := by
  unfold State.present; simp
@[simp] theorem State.present_pending (s : State) : (s.present).pending = s.pending := by
  unfold State.present; simp

@[simp] theorem State.present_events (s : State) :
    s.present.events = s.events ++ (if s.config.displayAttached then [.present s.frame.cells] else []) := by
  unfold State.present; simp

/-! ### Drawing passes -/

@[simp] theorem State.drawBgLine_config (s : State) (ly : Fin 144) : (s.drawBgLine ly).config = s.config := rfl
@[simp] theorem State.drawBgLine_regs (s : State) (ly : Fin 144) : (s.drawBgLine ly).regs = s.regs := rfl
@[simp] theorem State.drawBgLine_pal (s : State) (ly : Fin 144) : (s.drawBgLine ly).pal = s.pal := rfl
@[simp] theorem State.drawBgLine_spritesDrawn (s : State) (ly : Fin 144) : (s.drawBgLine ly).spritesDrawn = s.spritesDrawn := rfl
@[simp] theorem State.drawBgLine_vram (s : State) (ly : Fin 144) : (s.drawBgLine ly).vram = s.vram := rfl
@[simp] theorem State.drawBgLine_oam (s : State) (ly : Fin 144) : (s.drawBgLine ly).oam = s.oam := rfl
@[simp] theorem State.drawBgLine_lcdCycles (s : State) (ly : Fin 144) : (s.drawBgLine ly).lcdCycles = s.lcdCycles := rfl
@[simp] theorem State.drawBgLine_vblankCount (s : State) (ly : Fin 144) : (s.drawBgLine ly).vblankCount = s.vblankCount := rfl
@[simp] theorem State.drawBgLine_hdmaActive (s : State) (ly : Fin 144) : (s.drawBgLine ly).hdmaActive = s.hdmaActive := rfl
@[simp] theorem State.drawBgLine_requests (s : State) (ly : Fin 144) : (s.drawBgLine ly).requests = s.requests := rfl
@[simp] theorem State.drawBgLine_events (s : State) (ly : Fin 144) : (s.drawBgLine ly).events = s.events := rfl
@[simp] theorem State.drawBgLine_pending (s : State) (ly : Fin 144) : (s.drawBgLine ly).pending = s.pending := rfl

@[simp] theorem State.drawObjLine_config (s : State) (ly : Fin 144) : (s.drawObjLine ly).config = s.config := rfl
@[simp] theorem State.drawObjLine_regs (s : State) (ly : Fin 144) : (s.drawObjLine ly).regs = s.regs := rfl
@[simp] theorem State.drawObjLine_pal (s : State) (ly : Fin 144) : (s.drawObjLine ly).pal = s.pal := rfl
@[simp] theorem State.drawObjLine_vram (s : State) (ly : Fin 144) : (s.drawObjLine ly).vram = s.vram := rfl
@[simp] theorem State.drawObjLine_oam (s : State) (ly : Fin 144) : (s.drawObjLine ly).oam = s.oam := rfl
@[simp] theorem State.drawObjLine_lcdCycles (s : State) (ly : Fin 144) : (s.drawObjLine ly).lcdCycles = s.lcdCycles := rfl
@[simp] theorem State.drawObjLine_vblankCount (s : State) (ly : Fin 144) : (s.drawObjLine ly).vblankCount = s.vblankCount := rfl
@[simp] theorem State.drawObjLine_hdmaActive (s : State) (ly : Fin 144) : (s.drawObjLine ly).hdmaActive = s.hdmaActive := rfl
@[simp] theorem State.drawObjLine_requests (s : State) (ly : Fin 144) : (s.drawObjLine ly).requests = s.requests := rfl
@[simp] theorem State.drawObjLine_events (s : State) (ly : Fin 144) : (s.drawObjLine ly).events = s.events := rfl
@[simp] theorem State.drawObjLine_pending (s : State) (ly : Fin 144) : (s.drawObjLine ly).pending = s.pending := rfl

@[simp] theorem State.drawWinLine_config (s : State) (ly : Fin 144) : (s.drawWinLine ly).config = s.config := by
  unfold State.drawWinLine; split <;> rfl
@[simp] theorem State.drawWinLine_regs (s : State) (ly : Fin 144) : (s.drawWinLine ly).regs = s.regs := by
  unfold State.drawWinLine; split <;> rfl
@[simp] theorem State.drawWinLine_pal (s : State) (ly : Fin 144) : (s.drawWinLine ly).pal = s.pal := by
  unfold State.drawWinLine; split <;> rfl
@[simp] theorem State.drawWinLine_spritesDrawn (s : State) (ly : Fin 144) : (s.drawWinLine ly).spritesDrawn = s.spritesDrawn := by
  unfold State.drawWinLine; split <;> rfl
@[simp] theorem State.drawWinLine_vram (s : State) (ly : Fin 144) : (s.drawWinLine ly).vram = s.vram := by
  unfold State.drawWinLine; split <;> rfl
@[simp] theorem State.drawWinLine_oam (s : State) (ly : Fin 144) : (s.drawWinLine ly).oam = s.oam := by
  unfold State.drawWinLine; split <;> rfl
@[simp] theorem State.drawWinLine_lcdCycles (s : State) (ly : Fin 144) : (s.drawWinLine ly).lcdCycles = s.lcdCycles := by
  unfold State.drawWinLine; split <;> rfl
@[simp] theorem State.drawWinLine_vblankCount (s : State) (ly : Fin 144) : (s.drawWinLine ly).vblankCount = s.vblankCount := by
  unfold State.drawWinLine; split <;> rfl
@[simp] theorem State.drawWinLine_hdmaActive (s : State) (ly : Fin 144) : (s.drawWinLine ly).hdmaActive = s.hdmaActive := by
  unfold State.drawWinLine; split <;> rfl
@[simp] theorem State.drawWinLine_requests (s : State) (ly : Fin 144) : (s.drawWinLine ly).requests = s.requests := by
  unfold State.drawWinLine; split <;> rfl
@[simp] theorem State.drawWinLine_events (s : State) (ly : Fin 144) : (s.drawWinLine ly).events = s.events := by
  unfold State.drawWinLine; split <;> rfl
@[simp] theorem State.drawWinLine_pending (s : State) (ly : Fin 144) : (s.drawWinLine ly).pending = s.pending := by
  unfold State.drawWinLine; split <;> rfl

@[simp] theorem State.drawLine_config (s : State) (ly : Fin 144) : (s.drawLine ly).config = s.config := by
  unfold State.drawLine; dsimp only; split_ifs <;> simp
@[simp] theorem State.drawLine_regs (s : State) (ly : Fin 144) : (s.drawLine ly).regs = s.regs := by
  unfold State.drawLine; dsimp only; split_ifs <;> simp
@[simp] theorem State.drawLine_pal (s : State) (ly : Fin 144) : (s.drawLine ly).pal = s.pal := by
  unfold State.drawLine; dsimp only; split_ifs <;> simp
@[simp] theorem State.drawLine_vram (s : State) (ly : Fin 144) : (s.drawLine ly).vram = s.vram := by
  unfold State.drawLine; dsimp only; split_ifs <;> simp
@[simp] theorem State.drawLine_oam (s : State) (ly : Fin 144) : (s.drawLine ly).oam = s.oam := by
  unfold State.drawLine; dsimp only; split_ifs <;> simp
@[simp] theorem State.drawLine_lcdCycles (s : State) (ly : Fin 144) : (s.drawLine ly).lcdCycles = s.lcdCycles := by
  unfold State.drawLine; dsimp only; split_ifs <;> simp
@[simp] theorem State.drawLine_vblankCount (s : State) (ly : Fin 144) : (s.drawLine ly).vblankCount = s.vblankCount := by
  unfold State.drawLine; dsimp only; split_ifs <;> simp
@[simp] theorem State.drawLine_hdmaActive (s : State) (ly : Fin 144) : (s.drawLine ly).hdmaActive = s.hdmaActive := by
  unfold State.drawLine; dsimp only; split_ifs <;> simp
@[simp] theorem State.drawLine_requests (s : State) (ly : Fin 144) : (s.drawLine ly).requests = s.requests := by
  unfold State.drawLine; dsimp only; split_ifs <;> simp
@[simp] theorem State.drawLine_events (s : State) (ly : Fin 144) : (s.drawLine ly).events = s.events := by
  unfold State.drawLine; dsimp only; split_ifs <;> simp
@[simp] theorem State.drawLine_pending (s : State) (ly : Fin 144) : (s.drawLine ly).pending = s.pending := by
  unfold State.drawLine; dsimp only; split_ifs <;> simp

/-! ### The line boundary -/

@[simp] theorem State.updateStat_config (s : State) (ly1 : Byte) (vb : Bool) : (s.updateStat ly1 vb).config = s.config := by
  simp [State.updateStat]
@[simp] theorem State.updateStat_pal (s : State) (ly1 : Byte) (vb : Bool) : (s.updateStat ly1 vb).pal = s.pal := by
  simp [State.updateStat]
@[simp] theorem State.updateStat_spritesDrawn (s : State) (ly1 : Byte) (vb : Bool) : (s.updateStat ly1 vb).spritesDrawn = s.spritesDrawn := by
  simp [State.updateStat]
@[simp] theorem State.updateStat_vram (s : State) (ly1 : Byte) (vb : Bool) : (s.updateStat ly1 vb).vram = s.vram := by
  simp [State.updateStat]
@[simp] theorem State.updateStat_oam (s : State) (ly1 : Byte) (vb : Bool) : (s.updateStat ly1 vb).oam = s.oam := by
  simp [State.updateStat]
@[simp] theorem State.updateStat_frame (s : State) (ly1 : Byte) (vb : Bool) : (s.updateStat ly1 vb).frame = s.frame := by
  simp [State.updateStat]
@[simp] theorem State.updateStat_lcdCycles (s : State) (ly1 : Byte) (vb : Bool) : (s.updateStat ly1 vb).lcdCycles = s.lcdCycles := by
  simp [State.updateStat]
@[simp] theorem State.updateStat_vblankCount (s : State) (ly1 : Byte) (vb : Bool) : (s.updateStat ly1 vb).vblankCount = s.vblankCount := by
  simp [State.updateStat]
@[simp] theorem State.updateStat_hdmaActive (s : State) (ly1 : Byte) (vb : Bool) : (s.updateStat ly1 vb).hdmaActive = s.hdmaActive := by
  simp [State.updateStat]
@[simp] theorem State.updateStat_pending (s : State) (ly1 : Byte) (vb : Bool) : (s.updateStat ly1 vb).pending = s.pending := by
  simp [State.updateStat]

@[simp] theorem State.endFrame_config (s : State) (en : Bool) : (s.endFrame en).config = s.config := by
  simp [State.endFrame]
@[simp] theorem State.endFrame_regs (s : State) (en : Bool) : (s.endFrame en).regs = s.regs := by
  simp [State.endFrame]
@[simp] theorem State.endFrame_pal (s : State) (en : Bool) : (s.endFrame en).pal = s.pal := by
  simp [State.endFrame]
@[simp] theorem State.endFrame_spritesDrawn (s : State) (en : Bool) : (s.endFrame en).spritesDrawn = s.spritesDrawn := by
  simp [State.endFrame]
@[simp] theorem State.endFrame_vram (s : State) (en : Bool) : (s.endFrame en).vram = s.vram := by
  simp [State.endFrame]
@[simp] theorem State.endFrame_oam (s : State) (en : Bool) : (s.endFrame en).oam = s.oam := by
  simp [State.endFrame]
@[simp] theorem State.endFrame_frame (s : State) (en : Bool) : (s.endFrame en).frame = s.frame := by
  simp [State.endFrame]
@[simp] theorem State.endFrame_lcdCycles (s : State) (en : Bool) : (s.endFrame en).lcdCycles = s.lcdCycles := by
  simp [State.endFrame]
@[simp] theorem State.endFrame_hdmaActive (s : State) (en : Bool) : (s.endFrame en).hdmaActive = s.hdmaActive := by
  simp [State.endFrame]
@[simp] theorem State.endFrame_pending (s : State) (en : Bool) : (s.endFrame en).pending = s.pending := by
  simp [State.endFrame]

@[simp] theorem State.endFrame_vblankCount (s : State) (en : Bool) :
    (s.endFrame en).vblankCount = s.vblankCount + 1 := by
  simp [State.endFrame]

@[simp] theorem State.updateStat_regs (s : State) (ly1 : Byte) (vb : Bool) :
    (s.updateStat ly1 vb).regs = s.regs.set .stat (statAfterLine s.regs.stat s.regs.lyc ly1 vb) := by
  simp [State.updateStat]

/-! ### Reset -/

@[simp] theorem State.restart_config (s : State) : (s.restart).config = s.config := rfl
@[simp] theorem State.restart_vram (s : State) : (s.restart).vram = s.vram := rfl
@[simp] theorem State.restart_oam (s : State) : (s.restart).oam = s.oam := rfl
@[simp] theorem State.restart_hdmaActive (s : State) : (s.restart).hdmaActive = s.hdmaActive := rfl
@[simp] theorem State.restart_requests (s : State) : (s.restart).requests = s.requests := rfl
@[simp] theorem State.restart_events (s : State) : (s.restart).events = s.events := rfl
@[simp] theorem State.restart_pending (s : State) : (s.restart).pending = s.pending := rfl

end Sys2Proof.Machine
end

