-- ==== Sys2Proof/Laws/Passes.lean ====
section
/-! SUPPORT. The drawing passes: each writes only its line, keeps the priority tags legal, and draws what its loop says. -/

namespace Sys2Proof.Machine

/-! ### The position tests -/

theorem spriteVisible_iff (tall : Bool) (o : OamEntry) (ly : Fin 144) :
    spriteVisible tall o ly = true ↔
      (o.y.toNat : Int) - 16 ≤ ly.val ∧ (ly.val : Int) < (o.y.toNat : Int) - 16 + if tall then 16 else 8 := by
  unfold spriteVisible spriteHeight
  cases tall <;> exact decide_eq_true_iff

theorem windowOnLine_iff (wx wy : Byte) (ly : Fin 144) :
    windowOnLine wx wy ly = true ↔ wy.toNat ≤ ly.val ∧ wx.toNat < 167 := by
  unfold windowOnLine windowLeft
  rw [decide_eq_true_iff]
  omega

/-! ### Only the line -/

theorem Frame.get_drawTile_other (vram : Memory) (t : TileDraw) (ly : Fin 144) (f : Frame) (x : Fin 160) (y : Fin 144)
    (h : y ≠ ly) : (f.drawTile vram t ly).get x y = f.get x y := by
  rw [Frame.get_drawTile, dif_neg fun hc => h hc.1.1]

theorem Frame.get_foldl_drawTile_other {ι : Type} (vram : Memory) (t : ι → TileDraw) (ly : Fin 144) (l : List ι)
    (f : Frame) (x : Fin 160) (y : Fin 144) (h : y ≠ ly) :
    (l.foldl (fun f i => f.drawTile vram (t i) ly) f).get x y = f.get x y := by
  induction l generalizing f with
  | nil => rfl
  | cons i l ih => rw [List.foldl_cons, ih, Frame.get_drawTile_other _ _ _ _ _ _ h]

/-! ### Tiles side by side -/

/-- The tile covers screen column `x`. -/
abbrev TileDraw.Covers (t : TileDraw) (x : Fin 160) : Prop := 0 ≤ (x.val : Int) - t.sx ∧ (x.val : Int) - t.sx < 8

theorem Frame.get_drawTile_miss (vram : Memory) (t : TileDraw) (ly : Fin 144) (f : Frame) (x : Fin 160)
    (h : ¬t.Covers x) : (f.drawTile vram t ly).get x ly = f.get x ly := by
  rw [Frame.get_drawTile, dif_neg fun hc => h hc.1.2]

/-- A cell after a tile depends on no other cell. -/
theorem Frame.get_drawTile_congr (vram : Memory) (t : TileDraw) (ly : Fin 144) {f g : Frame} {x : Fin 160} {y : Fin 144}
    (h : f.get x y = g.get x y) : (f.drawTile vram t ly).get x y = (g.drawTile vram t ly).get x y := by
  rw [Frame.get_drawTile, Frame.get_drawTile, h]

/-- Tiles none of which covers a column leave it alone. -/
theorem Frame.get_foldl_drawTile_miss {ι : Type} (vram : Memory) (t : ι → TileDraw) (ly : Fin 144) (l : List ι)
    (f : Frame) (x : Fin 160) (h : ∀ i ∈ l, ¬(t i).Covers x) :
    (l.foldl (fun f i => f.drawTile vram (t i) ly) f).get x ly = f.get x ly := by
  induction l generalizing f with
  | nil => rfl
  | cons i l ih =>
    rw [List.foldl_cons, ih _ fun j hj => h j (by simp [hj]), Frame.get_drawTile_miss _ _ _ _ _ (h i (by simp))]

/-- Where exactly one of the tiles covers a column, that column shows that tile's pixel. -/
theorem Frame.get_foldl_drawTile_hit {ι : Type} (vram : Memory) (t : ι → TileDraw) (ly : Fin 144) (l : List ι)
    (hl : l.Nodup) (f : Frame) (x : Fin 160) (i : ι) (hi : i ∈ l) (h : ∀ j ∈ l, (t j).Covers x → j = i) :
    (l.foldl (fun f i => f.drawTile vram (t i) ly) f).get x ly = (f.drawTile vram (t i) ly).get x ly := by
  induction l generalizing f with
  | nil => simp at hi
  | cons k l ih =>
    rw [List.nodup_cons] at hl
    rw [List.foldl_cons]
    by_cases hk : k = i
    · subst hk
      refine Frame.get_foldl_drawTile_miss _ _ _ _ _ _ fun j hj hc => hl.1 ?_
      rw [← h j (by simp [hj]) hc]
      exact hj
    · have hm : ¬(t k).Covers x := fun hc => hk (h k (by simp) hc)
      rw [ih hl.2 _ ((List.mem_cons.mp hi).resolve_left (Ne.symm hk)) fun j hj => h j (by simp [hj])]
      exact Frame.get_drawTile_congr _ _ _ (Frame.get_drawTile_miss _ _ _ _ _ hm)

/-! ### Legal tags (R154) -/

/-- The tags a plot may carry are legal. -/
theorem legalTag_of_plotTagOk {q : Tag} (h : plotTagOk q = true) : legalTag (q.setWidth 8) := by
  revert q; decide

theorem plotTagOk_plotPriority {q : Tag} (h : baseTagOk q = true) (idx : ColorIndex) :
    plotTagOk (plotPriority q idx) = true := by
  revert q idx; decide

theorem legalTag_plotCell {old : Cell} {q : Tag} (c : Color) (ho : legalTag (cellTag old)) (hq : plotTagOk q = true) :
    legalTag (cellTag (plotCell old q c)) := by
  rcases plotCell_cases old q c with h | h <;> rw [h]
  · exact ho
  · rw [cellTag_mkCell]
    exact legalTag_of_plotTagOk hq

theorem Frame.tagsLegal_cleared : Frame.cleared.TagsLegal := fun x y => by
  rw [Frame.get_cleared]
  exact .inl cellTag_zero

theorem Frame.tagsLegal_plot {f : Frame} (hf : f.TagsLegal) (x : Fin 160) (y : Fin 144) {q : Tag} (c : Color)
    (hq : plotTagOk q = true) : (f.plot x y q c).TagsLegal := fun x' y' => by
  rw [Frame.get_plot]
  split_ifs
  · exact legalTag_plotCell c (hf x y) hq
  · exact hf x' y'

theorem Frame.tagsLegal_drawTile {f : Frame} (hf : f.TagsLegal) (vram : Memory) (t : TileDraw) (ly : Fin 144)
    (hb : baseTagOk t.base = true) : (f.drawTile vram t ly).TagsLegal := fun x y => by
  rw [Frame.get_drawTile]
  dsimp only
  split_ifs
  · exact hf x y
  · exact legalTag_plotCell _ (hf x y) (plotTagOk_plotPriority hb _)
  · exact hf x y

theorem Frame.tagsLegal_foldl_drawTile {ι : Type} (vram : Memory) (t : ι → TileDraw) (ly : Fin 144) (l : List ι)
    (ht : ∀ i, baseTagOk (t i).base = true) {f : Frame} (hf : f.TagsLegal) :
    (l.foldl (fun f i => f.drawTile vram (t i) ly) f).TagsLegal := by
  induction l generalizing f with
  | nil => exact hf
  | cons i l ih => exact ih (Frame.tagsLegal_drawTile hf _ _ _ (ht i))

/-! ### The sprite loop -/

/-- The entries of `es` that cover the line, in order. -/
def State.onLineSprites (s : State) (ly : Fin 144) (es : List Nat) : List Nat :=
  es.filter fun e => spriteVisible (tallSprites s.regs.lcdc) (oamEntry s.oam e) ly

/-- The entries the loop draws from counter `n`: the first `10 - n` that cover the line (R170). -/
def State.drawnSprites (s : State) (ly : Fin 144) (es : List Nat) (n : Nat) : List Nat :=
  (s.onLineSprites ly es).take (10 - n)

/-- Everything the loop of `DRAW.OBJ` does. -/
theorem State.drawSprites_eq (s : State) (ly : Fin 144) (es : List Nat) (f : Frame) (n : Nat) (hn : n ≤ 10) :
    s.drawSprites ly es f n =
      ((s.drawnSprites ly es n).foldl
        (fun f e => f.drawTile s.vram (s.spriteTileAt (oamEntry s.oam e) ly) ly) f,
        n + (s.drawnSprites ly es n).length) := by
  induction es generalizing f n with
  | nil => simp [State.drawSprites, State.drawnSprites, State.onLineSprites]
  | cons e es ih =>
    unfold State.drawSprites
    split_ifs with h1 h2
    · simp [h1, State.drawnSprites]
    · have hd : s.drawnSprites ly (e :: es) n = e :: s.drawnSprites ly es (n + 1) := by
        unfold State.drawnSprites State.onLineSprites
        rw [List.filter_cons, if_pos h2, show 10 - n = (10 - (n + 1)) + 1 by omega, List.take_succ_cons]
      rw [ih _ _ (by omega), hd]
      simp only [List.foldl_cons, List.length_cons, Prod.mk.injEq, true_and]
      omega
    · have hd : s.drawnSprites ly (e :: es) n = s.drawnSprites ly es n := by
        unfold State.drawnSprites State.onLineSprites
        rw [List.filter_cons, if_neg h2]
      rw [ih _ _ hn, hd]

theorem State.drawnSprites_length (s : State) (ly : Fin 144) (es : List Nat) (n : Nat) :
    (s.drawnSprites ly es n).length ≤ 10 - n := by
  simp [State.drawnSprites]

/-! ### The passes -/

theorem baseTagOk_spriteTile (m : Mode) (obj : Vector Palette 8) (tall : Bool) (o : OamEntry) (ly : Fin 144) :
    baseTagOk (spriteTile m obj tall o ly).base = true := by
  simp only [spriteTile, spriteBase]
  split_ifs <;> rfl

theorem State.drawBgLine_other (s : State) (ly : Fin 144) (x : Fin 160) (y : Fin 144) (h : y ≠ ly) :
    (s.drawBgLine ly).frame.get x y = s.frame.get x y := Frame.get_foldl_drawTile_other _ _ _ _ _ _ _ h

theorem State.drawBgLine_tagsLegal (s : State) (ly : Fin 144) (hf : s.frame.TagsLegal) :
    (s.drawBgLine ly).frame.TagsLegal := Frame.tagsLegal_foldl_drawTile _ _ _ _ (fun _ => rfl) hf

theorem State.drawWinLine_other (s : State) (ly : Fin 144) (x : Fin 160) (y : Fin 144) (h : y ≠ ly) :
    (s.drawWinLine ly).frame.get x y = s.frame.get x y := by
  unfold State.drawWinLine
  split
  · exact Frame.get_foldl_drawTile_other _ _ _ _ _ _ _ h
  · rfl

theorem State.drawWinLine_tagsLegal (s : State) (ly : Fin 144) (hf : s.frame.TagsLegal) :
    (s.drawWinLine ly).frame.TagsLegal := by
  unfold State.drawWinLine
  split
  · exact Frame.tagsLegal_foldl_drawTile _ _ _ _ (fun _ => rfl) hf
  · exact hf

/-- Everything `DRAW.OBJ` does on a line whose counter is at most ten. -/
theorem State.drawObjLine_eq (s : State) (ly : Fin 144) (hn : s.spritesDrawn[ly] ≤ 10) :
    s.drawObjLine ly =
      { s with
        frame := (s.drawnSprites ly (List.range 40) s.spritesDrawn[ly]).foldl
          (fun f e => f.drawTile s.vram (s.spriteTileAt (oamEntry s.oam e) ly) ly) s.frame
        spritesDrawn := s.spritesDrawn.set ly
          (s.spritesDrawn[ly] + (s.drawnSprites ly (List.range 40) s.spritesDrawn[ly]).length) } := by
  unfold State.drawObjLine
  rw [State.drawSprites_eq _ _ _ _ _ hn]

/-- A property that every sprite drawn keeps is kept by the loop, whatever the counter. -/
theorem State.drawSprites_frame_induct {P : Frame → Prop} (s : State) (ly : Fin 144)
    (h : ∀ o f, P f → P (f.drawTile s.vram (s.spriteTileAt o ly) ly)) (es : List Nat) (f : Frame) (n : Nat)
    (hf : P f) : P (s.drawSprites ly es f n).1 := by
  induction es generalizing f n with
  | nil => exact hf
  | cons e es ih =>
    unfold State.drawSprites
    split_ifs
    · exact hf
    · exact ih _ _ (h _ _ hf)
    · exact ih _ _ hf

theorem State.drawObjLine_other (s : State) (ly : Fin 144) (x : Fin 160) (y : Fin 144) (h : y ≠ ly) :
    (s.drawObjLine ly).frame.get x y = s.frame.get x y :=
  s.drawSprites_frame_induct (P := fun f => f.get x y = s.frame.get x y) ly
    (fun _ _ hf => by rw [Frame.get_drawTile_other _ _ _ _ _ _ h, hf]) _ _ _ rfl

theorem State.drawObjLine_tagsLegal (s : State) (ly : Fin 144) (hf : s.frame.TagsLegal) :
    (s.drawObjLine ly).frame.TagsLegal :=
  s.drawSprites_frame_induct (P := Frame.TagsLegal) ly
    (fun o _ h => Frame.tagsLegal_drawTile h s.vram (s.spriteTileAt o ly) ly (baseTagOk_spriteTile ..)) _ _ _ hf

theorem State.drawObjLine_spritesDrawn (s : State) (ly k : Fin 144) :
    (s.drawObjLine ly).spritesDrawn[k] =
      if k = ly then (s.drawSprites ly (List.range 40) s.frame s.spritesDrawn[ly]).2 else s.spritesDrawn[k] := by
  obtain ⟨k, hk⟩ := k
  obtain ⟨l, hl⟩ := ly
  simp only [State.drawObjLine, Fin.getElem_fin, Vector.getElem_set, Fin.mk.injEq]
  simp only [eq_comm]

/-- The counter of a line whose counter was at most ten stays at most ten (R36). -/
theorem State.drawObjLine_counter (s : State) (ly : Fin 144) (hn : s.spritesDrawn[ly] ≤ 10) :
    (s.drawObjLine ly).spritesDrawn[ly] ≤ 10 := by
  rw [State.drawObjLine_spritesDrawn, if_pos rfl, State.drawSprites_eq _ _ _ _ _ hn]
  have := s.drawnSprites_length ly (List.range 40) s.spritesDrawn[ly]
  dsimp only
  omega

theorem State.drawObjLine_counter_other (s : State) (ly k : Fin 144) (h : k ≠ ly) :
    (s.drawObjLine ly).spritesDrawn[k] = s.spritesDrawn[k] := by
  rw [State.drawObjLine_spritesDrawn, if_neg h]

/-! ### `DRAW` -/

/-- The state in which the passes of `DRAW` start. -/
def State.startLine (s : State) (ly : Fin 144) : State :=
  { s with
    frame := if ly = 0 then Frame.cleared else s.frame
    spritesDrawn := s.spritesDrawn.set ly 0 }

theorem State.drawLine_eq (s : State) (ly : Fin 144) :
    s.drawLine ly =
      (let s₁ := if bgEnabled s.regs.lcdc then (s.startLine ly).drawBgLine ly else s.startLine ly
       let s₂ := if objEnabled s.regs.lcdc then s₁.drawObjLine ly else s₁
       if winEnabled s.regs.lcdc then s₂.drawWinLine ly else s₂) := by
  unfold State.drawLine State.startLine
  by_cases h : ly = 0 <;> simp only [h, if_true, if_false]

theorem State.startLine_counter (s : State) (ly : Fin 144) : (s.startLine ly).spritesDrawn[ly] = 0 := by
  simp [State.startLine]

theorem State.startLine_counter_other (s : State) (ly k : Fin 144) (h : k ≠ ly) :
    (s.startLine ly).spritesDrawn[k] = s.spritesDrawn[k] := by
  obtain ⟨k, hk⟩ := k
  obtain ⟨l, hl⟩ := ly
  simp only [State.startLine, Fin.getElem_fin]
  exact Vector.getElem_set_ne _ _ fun hc => h (Fin.ext hc.symm)

/-- A relation between the state before and the state after that holds at the start of a line and that every pass
keeps holds at the end of `DRAW`. -/
theorem State.drawLine_induct {P : State → Prop} (s : State) (ly : Fin 144) (h0 : P (s.startLine ly))
    (hb : ∀ s, P s → P (s.drawBgLine ly)) (ho : ∀ s, P s → P (s.drawObjLine ly))
    (hw : ∀ s, P s → P (s.drawWinLine ly)) : P (s.drawLine ly) := by
  rw [State.drawLine_eq]
  dsimp only
  split_ifs
  all_goals
    first
    | exact hw _ (ho _ (hb _ h0))
    | exact hw _ (ho _ h0)
    | exact hw _ (hb _ h0)
    | exact hw _ h0
    | exact ho _ (hb _ h0)
    | exact ho _ h0
    | exact hb _ h0
    | exact h0

theorem State.drawLine_other (s : State) (ly : Fin 144) (x : Fin 160) (y : Fin 144) (h : y ≠ ly) :
    (s.drawLine ly).frame.get x y = if ly = 0 then 0 else s.frame.get x y :=
  s.drawLine_induct (P := fun t => t.frame.get x y = if ly = 0 then 0 else s.frame.get x y) ly
    (by unfold State.startLine; dsimp only; split_ifs <;> simp)
    (fun t ht => (t.drawBgLine_other ly x y h).trans ht) (fun t ht => (t.drawObjLine_other ly x y h).trans ht)
    fun t ht => (t.drawWinLine_other ly x y h).trans ht

theorem State.drawLine_tagsLegal (s : State) (ly : Fin 144) (hf : s.frame.TagsLegal) :
    (s.drawLine ly).frame.TagsLegal :=
  s.drawLine_induct (P := fun t => t.frame.TagsLegal) ly
    (by unfold State.startLine; dsimp only; split_ifs; exacts [Frame.tagsLegal_cleared, hf])
    (fun t => t.drawBgLine_tagsLegal ly) (fun t => t.drawObjLine_tagsLegal ly) fun t => t.drawWinLine_tagsLegal ly

/-- The counter of the drawn line ends at most ten. -/
theorem State.drawLine_counter (s : State) (ly : Fin 144) : (s.drawLine ly).spritesDrawn[ly] ≤ 10 :=
  s.drawLine_induct (P := fun t => t.spritesDrawn[ly] ≤ 10) ly (by rw [State.startLine_counter]; decide) (fun _ h => h)
    (fun t => t.drawObjLine_counter ly) fun t h => by rw [State.drawWinLine_spritesDrawn]; exact h

theorem State.drawLine_counter_other (s : State) (ly k : Fin 144) (h : k ≠ ly) :
    (s.drawLine ly).spritesDrawn[k] = s.spritesDrawn[k] :=
  s.drawLine_induct (P := fun t => t.spritesDrawn[k] = s.spritesDrawn[k]) ly (s.startLine_counter_other ly k h)
    (fun _ ht => ht) (fun t ht => (t.drawObjLine_counter_other ly k h).trans ht)
    fun t ht => by rw [State.drawWinLine_spritesDrawn]; exact ht

theorem State.drawLine_countersBounded (s : State) (ly : Fin 144) (hs : s.CountersBounded) :
    (s.drawLine ly).CountersBounded := fun k => by
  by_cases h : k = ly
  · subst h
    exact s.drawLine_counter k
  · rw [s.drawLine_counter_other ly k h]
    exact hs k

/-! ### What drawing looks at -/

/-- Two states agree on everything the passes read and write. -/
structure State.DrawsAlike (s t : State) : Prop where
  mode : s.config.mode = t.config.mode
  lcdc : s.regs.lcdc = t.regs.lcdc
  scx : s.regs.scx = t.regs.scx
  scy : s.regs.scy = t.regs.scy
  wx : s.regs.wx = t.regs.wx
  wy : s.regs.wy = t.regs.wy
  pal : s.pal = t.pal
  vram : s.vram = t.vram
  oam : s.oam = t.oam
  frame : s.frame = t.frame
  spritesDrawn : s.spritesDrawn = t.spritesDrawn

theorem State.DrawsAlike.drawSprites {s t : State} (h : s.DrawsAlike t) (ly : Fin 144) (es : List Nat) (f : Frame)
    (n : Nat) : s.drawSprites ly es f n = t.drawSprites ly es f n := by
  induction es generalizing f n with
  | nil => rfl
  | cons e es ih =>
    unfold State.drawSprites State.spriteTileAt
    rw [h.mode, h.lcdc, h.pal, h.vram, h.oam]
    simp only [ih]

theorem State.DrawsAlike.startLine {s t : State} (h : s.DrawsAlike t) (ly : Fin 144) :
    (s.startLine ly).DrawsAlike (t.startLine ly) :=
  ⟨h.mode, h.lcdc, h.scx, h.scy, h.wx, h.wy, h.pal, h.vram, h.oam,
    by unfold State.startLine; simp only [h.frame], by unfold State.startLine; simp only [h.spritesDrawn]⟩

theorem State.DrawsAlike.drawBgLine {s t : State} (h : s.DrawsAlike t) (ly : Fin 144) :
    (s.drawBgLine ly).DrawsAlike (t.drawBgLine ly) :=
  ⟨h.mode, h.lcdc, h.scx, h.scy, h.wx, h.wy, h.pal, h.vram, h.oam,
    by
      unfold State.drawBgLine State.bgTile State.mapTile
      simp only [h.mode, h.lcdc, h.scx, h.scy, h.pal, h.vram, h.frame], h.spritesDrawn⟩

theorem State.DrawsAlike.drawObjLine {s t : State} (h : s.DrawsAlike t) (ly : Fin 144) :
    (s.drawObjLine ly).DrawsAlike (t.drawObjLine ly) :=
  ⟨h.mode, h.lcdc, h.scx, h.scy, h.wx, h.wy, h.pal, h.vram, h.oam,
    by unfold State.drawObjLine; simp only [h.drawSprites, h.frame, h.spritesDrawn],
    by unfold State.drawObjLine; simp only [h.drawSprites, h.frame, h.spritesDrawn]⟩

theorem State.DrawsAlike.drawWinLine {s t : State} (h : s.DrawsAlike t) (ly : Fin 144) :
    (s.drawWinLine ly).DrawsAlike (t.drawWinLine ly) := by
  unfold State.drawWinLine State.winTile State.mapTile
  rw [h.wx, h.wy]
  split
  · exact ⟨h.mode, h.lcdc, h.scx, h.scy, h.wx, h.wy, h.pal, h.vram, h.oam,
      by simp only [h.mode, h.lcdc, h.pal, h.vram, h.frame], h.spritesDrawn⟩
  · exact h

/-- `DRAW` does the same on two states that agree on everything it looks at. -/
theorem State.DrawsAlike.drawLine {s t : State} (h : s.DrawsAlike t) (ly : Fin 144) :
    (s.drawLine ly).DrawsAlike (t.drawLine ly) := by
  rw [State.drawLine_eq, State.drawLine_eq, h.lcdc]
  dsimp only
  have h0 := h.startLine ly
  have h1 : (if bgEnabled t.regs.lcdc then (s.startLine ly).drawBgLine ly else s.startLine ly).DrawsAlike
      (if bgEnabled t.regs.lcdc then (t.startLine ly).drawBgLine ly else t.startLine ly) := by
    split
    · exact h0.drawBgLine ly
    · exact h0
  generalize (if bgEnabled t.regs.lcdc then (s.startLine ly).drawBgLine ly else s.startLine ly) = s₁ at h1 ⊢
  generalize (if bgEnabled t.regs.lcdc then (t.startLine ly).drawBgLine ly else t.startLine ly) = t₁ at h1 ⊢
  have h2 : (if objEnabled t.regs.lcdc then s₁.drawObjLine ly else s₁).DrawsAlike
      (if objEnabled t.regs.lcdc then t₁.drawObjLine ly else t₁) := by
    split
    · exact h1.drawObjLine ly
    · exact h1
  split
  · exact h2.drawWinLine ly
  · exact h2

end Sys2Proof.Machine
end

