-- ==== Sys2Proof/Laws/Line.lean ====
section
/-! SUPPORT. The line boundary and the loop of `TICK`: one lemma per field of the state, and what holds after any number
of lines. -/

namespace Sys2Proof.Machine

/-! ### A pass on a line given as a byte -/

theorem State.onLine_above (s : State) {ly : Byte} (p : State → Fin 144 → State) (h : 144 ≤ ly.toNat) :
    s.onLine ly p = s := by
  unfold State.onLine
  rw [dif_neg (by omega)]

theorem State.onLine_visible (s : State) {ly : Byte} (p : State → Fin 144 → State) (h : ly.toNat < 144) :
    s.onLine ly p = p s ⟨ly.toNat, h⟩ := by
  unfold State.onLine
  rw [dif_pos h]

/-- A property that holds without the pass and that the pass keeps. -/
theorem State.onLine_induct {P : State → Prop} (s : State) (ly : Byte) (p : State → Fin 144 → State) (h0 : P s)
    (hp : ∀ l, P (p s l)) : P (s.onLine ly p) := by
  unfold State.onLine
  split
  · exact hp _
  · exact h0

/-! ### What `LINE` draws -/

/-- The state after step 4 of `LINE`: the line is drawn when the LCD is enabled (R191). -/
def State.lineDrawn (s : State) : State :=
  if lcdEnabled s.regs.lcdc then s.onLine s.regs.ly State.drawLine else s

theorem State.lineDrawn_induct {P : State → Prop} (s : State) (h0 : P s) (hd : ∀ l, P (s.drawLine l)) :
    P s.lineDrawn := by
  unfold State.lineDrawn
  split
  · exact s.onLine_induct _ _ h0 hd
  · exact h0

@[simp] theorem State.lineDrawn_config (s : State) : s.lineDrawn.config = s.config :=
  s.lineDrawn_induct (P := fun t => t.config = s.config) rfl fun l => s.drawLine_config l
@[simp] theorem State.lineDrawn_regs (s : State) : s.lineDrawn.regs = s.regs :=
  s.lineDrawn_induct (P := fun t => t.regs = s.regs) rfl fun l => s.drawLine_regs l
@[simp] theorem State.lineDrawn_pal (s : State) : s.lineDrawn.pal = s.pal :=
  s.lineDrawn_induct (P := fun t => t.pal = s.pal) rfl fun l => s.drawLine_pal l
@[simp] theorem State.lineDrawn_vram (s : State) : s.lineDrawn.vram = s.vram :=
  s.lineDrawn_induct (P := fun t => t.vram = s.vram) rfl fun l => s.drawLine_vram l
@[simp] theorem State.lineDrawn_oam (s : State) : s.lineDrawn.oam = s.oam :=
  s.lineDrawn_induct (P := fun t => t.oam = s.oam) rfl fun l => s.drawLine_oam l
@[simp] theorem State.lineDrawn_lcdCycles (s : State) : s.lineDrawn.lcdCycles = s.lcdCycles :=
  s.lineDrawn_induct (P := fun t => t.lcdCycles = s.lcdCycles) rfl fun l => s.drawLine_lcdCycles l
@[simp] theorem State.lineDrawn_vblankCount (s : State) : s.lineDrawn.vblankCount = s.vblankCount :=
  s.lineDrawn_induct (P := fun t => t.vblankCount = s.vblankCount) rfl fun l => s.drawLine_vblankCount l
@[simp] theorem State.lineDrawn_hdmaActive (s : State) : s.lineDrawn.hdmaActive = s.hdmaActive :=
  s.lineDrawn_induct (P := fun t => t.hdmaActive = s.hdmaActive) rfl fun l => s.drawLine_hdmaActive l
@[simp] theorem State.lineDrawn_requests (s : State) : s.lineDrawn.requests = s.requests :=
  s.lineDrawn_induct (P := fun t => t.requests = s.requests) rfl fun l => s.drawLine_requests l
@[simp] theorem State.lineDrawn_events (s : State) : s.lineDrawn.events = s.events :=
  s.lineDrawn_induct (P := fun t => t.events = s.events) rfl fun l => s.drawLine_events l
@[simp] theorem State.lineDrawn_pending (s : State) : s.lineDrawn.pending = s.pending :=
  s.lineDrawn_induct (P := fun t => t.pending = s.pending) rfl fun l => s.drawLine_pending l

theorem State.lineDrawn_tagsLegal (s : State) (h : s.frame.TagsLegal) : s.lineDrawn.frame.TagsLegal :=
  s.lineDrawn_induct (P := fun t => t.frame.TagsLegal) h fun l => s.drawLine_tagsLegal l h

theorem State.lineDrawn_countersBounded (s : State) (h : s.CountersBounded) : s.lineDrawn.CountersBounded :=
  s.lineDrawn_induct (P := State.CountersBounded) h fun l => s.drawLine_countersBounded l h

/-! ### `LINE`, field by field -/

/-- `LINE` in its five parts. -/
theorem State.line_eq (s : State) :
    s.line =
      (let s₁ := (s.lineDrawn.setReg .ly (nextLy s.regs.ly)).emitIf (!isVBlankLine s.regs.ly && s.hdmaActive) .hdmaTick
       let s₂ := if lcdEnabled s.regs.lcdc then s₁.updateStat (nextLy s.regs.ly) (isVBlankLine s.regs.ly) else s₁
       if s.regs.ly = 143 then s₂.endFrame (lcdEnabled s.regs.lcdc) else s₂) := by
  unfold State.line
  dsimp only
  rw [show (if lcdEnabled s.regs.lcdc = true then s.onLine s.regs.ly State.drawLine else s) = s.lineDrawn from rfl]
  simp only [State.setReg_hdmaActive, State.lineDrawn_hdmaActive]

@[simp] theorem State.line_config (s : State) : s.line.config = s.config := by
  rw [State.line_eq]; dsimp only; split_ifs <;> simp
@[simp] theorem State.line_pal (s : State) : s.line.pal = s.pal := by
  rw [State.line_eq]; dsimp only; split_ifs <;> simp
@[simp] theorem State.line_vram (s : State) : s.line.vram = s.vram := by
  rw [State.line_eq]; dsimp only; split_ifs <;> simp
@[simp] theorem State.line_oam (s : State) : s.line.oam = s.oam := by
  rw [State.line_eq]; dsimp only; split_ifs <;> simp
@[simp] theorem State.line_lcdCycles (s : State) : s.line.lcdCycles = s.lcdCycles := by
  rw [State.line_eq]; dsimp only; split_ifs <;> simp
@[simp] theorem State.line_hdmaActive (s : State) : s.line.hdmaActive = s.hdmaActive := by
  rw [State.line_eq]; dsimp only; split_ifs <;> simp
@[simp] theorem State.line_pending (s : State) : s.line.pending = s.pending := by
  rw [State.line_eq]; dsimp only; split_ifs <;> simp
@[simp] theorem State.line_frame (s : State) : s.line.frame = s.lineDrawn.frame := by
  rw [State.line_eq]; dsimp only; split_ifs <;> simp
@[simp] theorem State.line_spritesDrawn (s : State) : s.line.spritesDrawn = s.lineDrawn.spritesDrawn := by
  rw [State.line_eq]; dsimp only; split_ifs <;> simp

theorem State.line_vblankCount (s : State) :
    s.line.vblankCount = s.vblankCount + if s.regs.ly = 143 then 1 else 0 := by
  rw [State.line_eq]; dsimp only; split_ifs <;> simp

/-- The registers after a `LINE`: `LY` and `STAT` written, the others as before (R66). -/
theorem State.line_regs (s : State) :
    s.line.regs =
      { s.regs with
        ly := nextLy s.regs.ly
        stat :=
          if lcdEnabled s.regs.lcdc then
            statAfterLine s.regs.stat s.regs.lyc (nextLy s.regs.ly) (isVBlankLine s.regs.ly)
          else s.regs.stat } := by
  rw [State.line_eq]; dsimp only; split_ifs <;> simp <;> rfl

/-- The outputs of a `LINE`, in order (R75). -/
theorem State.line_events (s : State) :
    s.line.events = s.events
      ++ outputIf (!isVBlankLine s.regs.ly && s.hdmaActive) .hdmaTick
      ++ (if lcdEnabled s.regs.lcdc then
            outputIf (coincidenceEvaluated s.regs.stat (isVBlankLine s.regs.ly) && s.regs.lyc == nextLy s.regs.ly)
              (.raised .lcdc)
            ++ outputIf (!isVBlankLine s.regs.ly && hblankIrqEnabled s.regs.stat) (.raised .lcdc)
          else [])
      ++ (if s.regs.ly = 143 then
            outputIf s.config.displayAttached (.present s.line.frame.cells)
            ++ outputIf (lcdEnabled s.regs.lcdc) (.raised .vblank)
            ++ outputIf (lcdEnabled s.regs.lcdc && vblankIrqEnabled s.line.regs.stat) (.raised .lcdc)
          else []) := by
  rw [State.line_frame, State.line_regs, State.line_eq]
  by_cases he : lcdEnabled s.regs.lcdc = true <;> by_cases hl : s.regs.ly = 143 <;>
    simp only [he, hl, if_true, if_false, State.updateStat, State.endFrame] <;> simp [outputIf]

/-- The request bits after a `LINE`. -/
theorem State.line_requests (s : State) :
    s.line.requests =
      { vblank := s.requests.vblank || (s.regs.ly = 143 && lcdEnabled s.regs.lcdc)
        lcdc := s.requests.lcdc ||
          (lcdEnabled s.regs.lcdc &&
            ((coincidenceEvaluated s.regs.stat (isVBlankLine s.regs.ly) && s.regs.lyc == nextLy s.regs.ly) ||
              (!isVBlankLine s.regs.ly && hblankIrqEnabled s.regs.stat) ||
              (s.regs.ly = 143 && vblankIrqEnabled s.line.regs.stat))) } := by
  have hs : ∀ (t : State) (b : Bool), (t.raiseIf b .lcdc).requests = ⟨t.requests.vblank, t.requests.lcdc || b⟩ := by
    intro t b; cases b <;> simp [State.raiseIf, State.raise, Requests.set]
  have hv : ∀ (t : State) (b : Bool), (t.raiseIf b .vblank).requests = ⟨t.requests.vblank || b, t.requests.lcdc⟩ := by
    intro t b; cases b <;> simp [State.raiseIf, State.raise, Requests.set]
  rw [State.line_regs, State.line_eq]
  by_cases he : lcdEnabled s.regs.lcdc = true <;> by_cases hl : s.regs.ly = 143 <;>
    simp only [he, hl, if_true, if_false, State.updateStat, State.endFrame] <;>
    simp [-State.raiseIf_requests, hs, hv, Bool.or_assoc]

theorem State.line_ly (s : State) : s.line.regs.ly = nextLy s.regs.ly := by rw [State.line_regs]
theorem State.line_lcdc (s : State) : s.line.regs.lcdc = s.regs.lcdc := by rw [State.line_regs]
theorem State.line_lyc (s : State) : s.line.regs.lyc = s.regs.lyc := by rw [State.line_regs]

theorem nextLy_toNat (b : Byte) : (nextLy b).toNat = (b.toNat + 1) % 154 := by
  unfold nextLy
  rw [BitVec.toNat_ofNat, Nat.mod_eq_of_lt (by omega)]

/-! ### `STAT` -/

/-- The writes of a line keep `STAT[7:3]` (R30, R109). -/
theorem withMode_high (stat : Byte) (vb : Bool) : (withMode stat vb).toNat / 4 = stat.toNat / 4 := by
  revert stat vb; decide
theorem withMode_mode (stat : Byte) (vb : Bool) : (withMode stat vb).toNat % 4 = if vb then 1 else 0 := by
  revert stat vb; decide
theorem withCoincidence_high (stat : Byte) (hit : Bool) : (withCoincidence stat hit).toNat / 8 = stat.toNat / 8 := by
  revert stat hit; decide
theorem withCoincidence_mode (stat : Byte) (hit : Bool) : (withCoincidence stat hit).toNat % 4 = stat.toNat % 4 := by
  revert stat hit; decide
theorem withCoincidence_bit (stat : Byte) (hit : Bool) : (withCoincidence stat hit).getLsbD 2 = hit := by
  revert stat hit; decide
theorem withMode_bit2 (stat : Byte) (vb : Bool) : (withMode stat vb).getLsbD 2 = stat.getLsbD 2 := by
  revert stat vb; decide

theorem statAfterLine_high (stat lyc ly1 : Byte) (vb : Bool) :
    (statAfterLine stat lyc ly1 vb).toNat / 8 = stat.toNat / 8 := by
  have := withMode_high stat vb
  unfold statAfterLine
  split
  · rw [withCoincidence_high]
    omega
  · omega

theorem statAfterLine_mode (stat lyc ly1 : Byte) (vb : Bool) :
    (statAfterLine stat lyc ly1 vb).toNat % 4 = if vb then 1 else 0 := by
  unfold statAfterLine
  split
  · rw [withCoincidence_mode, withMode_mode]
  · exact withMode_mode stat vb

theorem statAfterLine_bit2 (stat lyc ly1 : Byte) (vb : Bool) :
    (statAfterLine stat lyc ly1 vb).getLsbD 2 =
      if coincidenceEvaluated stat vb then lyc == ly1 else stat.getLsbD 2 := by
  unfold statAfterLine
  split
  · exact withCoincidence_bit _ _
  · exact withMode_bit2 stat vb

/-- A line keeps the three enable bits of `STAT`. -/
theorem getLsbD_of_high {a b : Byte} (h : a.toNat / 8 = b.toNat / 8) (i : Nat) (hi : 3 ≤ i) :
    a.getLsbD i = b.getLsbD i := by
  obtain ⟨k, rfl⟩ : ∃ k, i = k + 3 := ⟨i - 3, by omega⟩
  simp only [BitVec.getLsbD, Nat.testBit_add, show 2 ^ 3 = 8 from rfl, h]

/-! ### The loop of `TICK` -/

/-- What a line draws is the same in two states that agree on everything the passes look at and on `LY`. -/
theorem State.DrawsAlike.lineDrawn {s t : State} (h : s.DrawsAlike t) (hl : s.regs.ly = t.regs.ly) :
    s.lineDrawn.DrawsAlike t.lineDrawn := by
  unfold State.lineDrawn State.onLine
  rw [h.lcdc, hl]
  split_ifs
  · exact h.drawLine _
  · exact h
  · exact h

/-- A line does not look at the cycle counter. -/
theorem State.line_setCycles (s : State) (c : Nat) :
    ({ s with lcdCycles := c } : State).line = { s.line with lcdCycles := c } := by
  have h := (⟨rfl, rfl, rfl, rfl, rfl, rfl, rfl, rfl, rfl, rfl, rfl⟩ :
    ({ s with lcdCycles := c } : State).DrawsAlike s).lineDrawn rfl
  apply State.ext_fields <;>
    simp [State.line_regs, State.line_vblankCount, State.line_events, State.line_requests, h.frame, h.spritesDrawn]

/-- What holds of a state whatever its cycle counter, and every line keeps, holds after the loop. -/
theorem State.tickLoop_induct {P : State → Prop} (hc : ∀ s c, P s → P { s with lcdCycles := c })
    (hl : ∀ s : State, P s → P s.line) (fuel : Nat) (s : State) (h : P s) : P (State.tickLoop fuel s) := by
  induction fuel generalizing s with
  | zero => exact h
  | succ n ih =>
    unfold State.tickLoop
    split
    · exact ih _ (hl _ (hc _ _ h))
    · exact h

/-- The same for a `TICK`. -/
theorem State.tick_induct {P : State → Prop} (hc : ∀ s c, P s → P { s with lcdCycles := c })
    (hl : ∀ s : State, P s → P s.line) (s : State) (n : Nat) (h : P s) : P (s.tick n) :=
  State.tickLoop_induct hc hl _ _ (hc _ _ h)

end Sys2Proof.Machine
end

