-- ==== Sys2Proof/Laws/Exec.lean ====
section
/-! SUPPORT. What an operation can do, said once, and what a step can do: proofs over all operations cite these instead of
unfolding the meanings. -/

namespace Sys2Proof.Machine

theorem State.inMode_next {s n t : State} {m : Mode} : s.inMode m n = .next t ↔ s.config.mode = m ∧ n = t := by
  unfold State.inMode
  split_ifs with h <;> simp [h]

/-- What holds of every state an operation can lead to: a new palette store (palette operations only), one output that is
no raise, the same state, a new framebuffer with new counters, a `TICK`, a `LINE`, a `RESET`. -/
theorem exec_induct {P : State → Prop} {i : Instr} {s t : State} (h : exec i s = .next t)
    (hpal : ∀ p, writesPalettes i = true → P { s with pal := p })
    (hemit : ∀ e : Event, e.isRaise = false → writesPalettes i = false → writesScanline i = false → P (s.emit e))
    (hsame : writesScanline i = false → P s)
    (hframe : ∀ f n, writesPalettes i = false → writesScanline i = false →
      P { s with frame := f, spritesDrawn := n })
    (htick : ∀ n, i = .tick n → P (s.tick n))
    (hline : i = .line → P s.line)
    (hreset : i = .reset → P s.restart) : P t := by
  cases i <;>
    simp only [exec, execPalSetDmgBg, execPalSetDmgObj0, execPalSetDmgObj1, execPalWriteCgbBg, execPalWriteCgbObj,
      execPalInit, execPalBg, execPalObj, execTileFetchRow, execFbPlot, execFbClear, execFbPresent, execDraw,
      execDrawTile, execDrawBg, execDrawObj, execDrawWin, execTick, execLine, execReset] at h
  case palSetDmgBg | palSetDmgObj0 | palSetDmgObj1 | palWriteCgbBg | palWriteCgbObj =>
    obtain ⟨-, rfl⟩ := State.inMode_next.mp h
    exact hpal _ rfl
  case palBg | palObj =>
    cases h
    exact hemit _ rfl rfl rfl
  case tileFetchRow =>
    split_ifs at h
    cases h
    exact hemit _ rfl rfl rfl
  case fbPlot | drawTile =>
    split_ifs at h
    cases h
    exact hframe _ _ rfl rfl
  case fbClear =>
    cases h
    exact hframe _ _ rfl rfl
  case fbPresent =>
    cases h
    unfold State.present State.emitIf
    split
    · exact hemit _ rfl rfl rfl
    · exact hsame rfl
  case draw =>
    cases h
    refine s.onLine_induct _ _ (hsame rfl) fun l => ?_
    have hl : s.drawLine l = { s with frame := (s.drawLine l).frame, spritesDrawn := (s.drawLine l).spritesDrawn } := by
      apply State.ext_fields <;> simp
    rw [hl]
    exact hframe _ _ rfl rfl
  case drawBg | drawObj =>
    cases h
    exact s.onLine_induct _ _ (hsame rfl) fun l => hframe _ _ rfl rfl
  case drawWin =>
    cases h
    refine s.onLine_induct _ _ (hsame rfl) fun l => ?_
    unfold State.drawWinLine
    split
    · exact hframe _ _ rfl rfl
    · exact hsame rfl
  case tick =>
    cases h
    exact htick _ rfl
  case line =>
    cases h
    exact hline rfl
  case reset =>
    cases h
    exact hreset rfl
  case palInit =>
    cases h
    exact hpal _ rfl

/-- What a step that answers a next state did. -/
theorem step_next {s t : State} (h : step s = .next t) :
    (s.pending = [] ∧ t = s) ∨
    (∃ g rest, s.pending = .host g :: rest ∧ { s with pending := rest }.hostStep g = .next t) ∨
    ∃ c i rest, s.pending = .command c :: rest ∧ decode c = .ok i ∧ exec i { s with pending := rest } = .next t := by
  unfold step State.fetch at h
  cases hp : s.pending with
  | nil =>
    rw [hp] at h
    cases h
    exact .inl ⟨rfl, rfl⟩
  | cons r rest =>
    rw [hp] at h
    cases r with
    | host g => exact .inr (.inl ⟨g, rest, rfl, h⟩)
    | command c =>
      dsimp only at h
      split at h
      · rename_i i hd
        exact .inr (.inr ⟨c, i, rest, rfl, hd, h⟩)
      · cases h

end Sys2Proof.Machine
end

