-- ==== Sys2Proof/Laws/Memory.lean ====
section
/-! SUPPORT. Byte memories: what a read sees after a write, and that a write keeps the canonical form. -/

namespace Sys2Proof.Machine

/-- Every address listed lies above `a`. -/
abbrev Memory.Above (a : Nat) (m : Memory) : Prop := ∀ c ∈ m, a < c.1

@[simp] theorem Memory.read_nil (a : Nat) : Memory.read [] a = unlistedByte := rfl

theorem Memory.read_of_above {m : Memory} {a : Nat} (h : Memory.Above a m) : m.read a = unlistedByte := by
  induction m with
  | nil => rfl
  | cons c m ih =>
    have hc : a < c.1 := h c (by simp)
    rw [show c = (c.1, c.2) from rfl, Memory.read, if_neg (by omega)]
    exact ih fun d hd => h d (by simp [hd])

/-- An entry after a write is an entry before it or the written one. -/
theorem Memory.mem_write {m : Memory} {a : Nat} {v : Byte} {c : Host.Cell} (h : c ∈ m.write a v) :
    c ∈ m ∨ (c = (a, v) ∧ v ≠ unlistedByte) := by
  induction m with
  | nil =>
    unfold Memory.write at h
    split at h <;> simp_all
  | cons d m ih =>
    rw [show d = (d.1, d.2) from rfl, Memory.write] at h
    split_ifs at h <;> simp only [List.mem_cons] at h ⊢ <;> grind

theorem Memory.wf_nil (size : Nat) : Memory.wf size [] := by simp [Memory.wf]

theorem Memory.wf_tail {size : Nat} {c : Host.Cell} {m : Memory} (h : Memory.wf size (c :: m)) :
    Memory.wf size m ∧ Memory.Above c.1 m := by
  obtain ⟨hp, hv⟩ := h
  rw [List.pairwise_cons] at hp
  exact ⟨⟨hp.2, fun d hd => hv d (by simp [hd])⟩, hp.1⟩

/-- A write keeps the canonical form. -/
theorem Memory.write_wf {size : Nat} {m : Memory} (hm : Memory.wf size m) {a : Nat} (ha : a < size) (v : Byte) :
    Memory.wf size (m.write a v) := by
  induction m with
  | nil =>
    unfold Memory.write
    split <;> simp_all [Memory.wf]
  | cons c m ih =>
    obtain ⟨hw, hab⟩ := Memory.wf_tail hm
    have hc := hm.2 c (by simp)
    have hlist := hm.1
    rw [show c = (c.1, c.2) from rfl, Memory.write]
    split_ifs with h1 h2 h3 h4
    · exact hm
    · refine ⟨?_, ?_⟩
      · rw [List.pairwise_cons]
        refine ⟨fun d hd => ?_, hlist⟩
        rcases List.mem_cons.mp hd with rfl | hd
        · exact h1
        · exact Nat.lt_trans h1 (hab d hd)
      · intro d hd
        rcases List.mem_cons.mp hd with rfl | hd
        · exact ⟨ha, h2⟩
        · exact hm.2 d hd
    · exact hw
    · refine ⟨?_, ?_⟩
      · rw [List.pairwise_cons]
        exact ⟨fun d hd => h3 ▸ hab d hd, hw.1⟩
      · intro d hd
        rcases List.mem_cons.mp hd with rfl | hd
        · exact ⟨ha, h4⟩
        · exact hw.2 d hd
    · have hrec := ih hw
      refine ⟨?_, ?_⟩
      · rw [List.pairwise_cons]
        refine ⟨fun d hd => ?_, hrec.1⟩
        rcases Memory.mem_write hd with hd | ⟨rfl, -⟩
        · exact hab d hd
        · show c.1 < a
          omega
      · intro d hd
        rcases List.mem_cons.mp hd with rfl | hd
        · exact hc
        · exact hrec.2 d hd

/-- What a read sees after a write. -/
theorem Memory.read_write {size : Nat} {m : Memory} (hm : Memory.wf size m) (a b : Nat) (v : Byte) :
    (m.write a v).read b = if b = a then v else m.read b := by
  induction m with
  | nil =>
    unfold Memory.write
    split_ifs <;> simp_all [Memory.read]
  | cons c m ih =>
    obtain ⟨hw, hab⟩ := Memory.wf_tail hm
    have above : ∀ {x : Nat}, x < c.1 → Memory.read (c :: m) x = unlistedByte := fun hx =>
      Memory.read_of_above fun d hd => by
        rcases List.mem_cons.mp hd with rfl | hd
        · exact hx
        · exact Nat.lt_trans hx (hab d hd)
    have same : Memory.read m c.1 = unlistedByte := Memory.read_of_above hab
    rw [show c = (c.1, c.2) from rfl, Memory.write]
    split_ifs with h1 h2 h3 h4 h5 <;>
      simp only [Memory.read] at * <;> grind

/-- `State.reset`'s memories are in canonical form. -/
theorem State.reset_memory : State.reset.MemoryCanonical := ⟨Memory.wf_nil _, Memory.wf_nil _⟩

end Sys2Proof.Machine
end

