-- ==== Sys2Proof/Laws/Palette.lean ====
section
/-! SUPPORT. The palette store: what each of its operations leaves in every colour. -/

namespace Sys2Proof.Machine

/-- Colour `i` of the palette a DMG palette byte gives. -/
theorem dmgPalette_get (p : Palette) (v : Byte) (i : Fin 4) :
    (dmgPalette p v)[i] = p[v.toNat / 4 ^ i.val % 4]'(Nat.mod_lt _ (by decide)) := by
  simp only [dmgPalette, paletteColor, dmgGroup, Fin.getElem_fin, Vector.getElem_ofFn]
  congr 1
  simp [BitVec.extractLsb'_toNat, Nat.shiftRight_eq_div_pow, pow_mul]

/-- Every colour after one slot was replaced. -/
theorem setSlot_get (pals : Vector Palette 8) (k : Fin 32) (c : Color) (i : Fin 8) (j : Fin 4) :
    (setSlot pals k c)[i][j] = if 4 * i.val + j.val = k.val then c else pals[i][j] := by
  obtain ⟨i, hi⟩ := i
  obtain ⟨j, hj⟩ := j
  obtain ⟨k, hk⟩ := k
  show (setSlot pals ⟨k, hk⟩ c)[i][j] = if 4 * i + j = k then c else pals[i][j]
  have hs : setSlot pals ⟨k, hk⟩ c = pals.set (k / 4) (pals[k / 4].set (k % 4) c) := rfl
  by_cases h1 : k / 4 = i
  · subst h1
    by_cases h2 : k % 4 = j
    · subst h2
      simp only [hs, Vector.getElem_set_self]
      rw [if_pos (by omega)]
    · simp only [hs, Vector.getElem_set_self, Vector.getElem_set_ne _ _ h2]
      rw [if_neg (by omega)]
  · simp only [hs, Vector.getElem_set_ne _ _ h1]
    rw [if_neg (by omega)]

/-- The word of the slot of colour `j` of palette `i`. -/
theorem ramWord_slot (ram : Vector Byte 64) (i : Fin 8) (j : Fin 4) :
    ramWord ram ⟨4 * i.val + j.val, by omega⟩ =
      ram[8 * i.val + 2 * j.val + 1] ++ ram[8 * i.val + 2 * j.val] := by
  simp only [ramWord]
  congr 2 <;> (congr 1; omega)

/-- Every colour of the palettes a palette RAM gives. -/
theorem resolveRam_get (ram : Vector Byte 64) (i : Fin 8) (j : Fin 4) :
    (resolveRam ram)[i][j] = resolve555 (ram[8 * i.val + 2 * j.val + 1] ++ ram[8 * i.val + 2 * j.val]) := by
  simp only [resolveRam, Fin.getElem_fin, Vector.getElem_ofFn]
  rw [ramWord_slot]

/-- Every colour after one byte of a coherent side was written: only the colour of the written slot is recomputed. -/
theorem writeSlot_get (pals : Vector Palette 8) (ram : Vector Byte 64) (o : BitVec 6) (i : Fin 8) (j : Fin 4) :
    (setSlot pals (slotOf o) (resolve555 (ramWord ram (slotOf o))))[i][j] =
      if 4 * i.val + j.val = o.toNat / 2 then
        resolve555 (ram[8 * i.val + 2 * j.val + 1] ++ ram[8 * i.val + 2 * j.val])
      else pals[i][j] := by
  rw [setSlot_get]
  show (if 4 * i.val + j.val = o.toNat / 2 then _ else _) = _
  split_ifs with h
  · rw [← ramWord_slot]
    congr 2
    exact Fin.ext h.symm
  · rfl

theorem palettes_ext {p q : Vector Palette 8} (h : ∀ (i : Fin 8) (j : Fin 4), p[i][j] = q[i][j]) : p = q :=
  Vector.ext fun i hi => Vector.ext fun j hj => h ⟨i, hi⟩ ⟨j, hj⟩

/-- A write of one byte keeps a side coherent with its RAM (R34). -/
theorem setSlot_coherent {pals : Vector Palette 8} {ram : Vector Byte 64} (h : pals = resolveRam ram) (o : BitVec 6)
    (v : Byte) :
    setSlot pals (slotOf o) (resolve555 (ramWord (ram.set o.toNat v o.isLt) (slotOf o))) =
      resolveRam (ram.set o.toNat v o.isLt) := by
  refine palettes_ext fun i j => ?_
  rw [writeSlot_get, resolveRam_get]
  split_ifs with hk
  · rfl
  · rw [h, resolveRam_get, Vector.getElem_set_ne _ _ (by omega), Vector.getElem_set_ne _ _ (by omega)]

end Sys2Proof.Machine
end

