-- ==== Sys2Proof/Laws/PerInstr.lean ====
section
/-! SUPPORT. Statements for all operations, one lemma per constructor. `EncodedShape`: the selector an operation is encoded
with is one of the twenty of R108, and the command carries as many numbers as that selector's format has fields. -/

namespace Sys2Proof.Laws.EncodedShape

/-- The command of `i` has the shape its selector asks for. -/
def Statement (i : Instr) : Prop :=
  (encode i).op.toNat < 20 ∧ (encode i).fields.length = fieldCount (encode i).op

theorem palSetDmgBg (v : Byte) : Statement (.palSetDmgBg v) := ⟨of_decide_eq_true rfl, rfl⟩
theorem palSetDmgObj0 (v : Byte) : Statement (.palSetDmgObj0 v) := ⟨of_decide_eq_true rfl, rfl⟩
theorem palSetDmgObj1 (v : Byte) : Statement (.palSetDmgObj1 v) := ⟨of_decide_eq_true rfl, rfl⟩
theorem palWriteCgbBg (o : BitVec 6) (v : Byte) : Statement (.palWriteCgbBg o v) := ⟨of_decide_eq_true rfl, rfl⟩
theorem palWriteCgbObj (o : BitVec 6) (v : Byte) : Statement (.palWriteCgbObj o v) := ⟨of_decide_eq_true rfl, rfl⟩
theorem palBg (n : BitVec 3) : Statement (.palBg n) := ⟨of_decide_eq_true rfl, rfl⟩
theorem palObj (n : BitVec 3) : Statement (.palObj n) := ⟨of_decide_eq_true rfl, rfl⟩
theorem tileFetchRow (b : BitVec 1) (t : BitVec 9) (r : BitVec 3) (fx fy : Bool) :
    Statement (.tileFetchRow b t r fx fy) := ⟨of_decide_eq_true rfl, rfl⟩
theorem fbPlot (x y : Byte) (q : Tag) (c : Color) : Statement (.fbPlot x y q c) := ⟨of_decide_eq_true rfl, rfl⟩
theorem fbClear : Statement (.fbClear) := ⟨of_decide_eq_true rfl, rfl⟩
theorem fbPresent : Statement (.fbPresent) := ⟨of_decide_eq_true rfl, rfl⟩
theorem draw (ly : Byte) : Statement (.draw ly) := ⟨of_decide_eq_true rfl, rfl⟩
theorem drawTile (p : Palette) (b : BitVec 1) (t : BitVec 9) (fx fy : Bool) (sx sy : Int) (ly : Byte) (q : Tag) (sp : Bool) :
    Statement (.drawTile p b t fx fy sx sy ly q sp) := ⟨of_decide_eq_true rfl, rfl⟩
theorem drawBg (ly : Byte) : Statement (.drawBg ly) := ⟨of_decide_eq_true rfl, rfl⟩
theorem drawObj (ly : Byte) : Statement (.drawObj ly) := ⟨of_decide_eq_true rfl, rfl⟩
theorem drawWin (ly : Byte) : Statement (.drawWin ly) := ⟨of_decide_eq_true rfl, rfl⟩
theorem tick (n : Nat) : Statement (.tick n) := ⟨of_decide_eq_true rfl, rfl⟩
theorem line : Statement (.line) := ⟨of_decide_eq_true rfl, rfl⟩
theorem reset : Statement (.reset) := ⟨of_decide_eq_true rfl, rfl⟩
theorem palInit : Statement (.palInit) := ⟨of_decide_eq_true rfl, rfl⟩

end Sys2Proof.Laws.EncodedShape
end

