-- ==== Sys2Proof/Laws/Tiles.lean ====
section
/-! SUPPORT. Tile rows and map entries as arithmetic on the bytes read. -/

namespace Sys2Proof.Machine

theorem ofBool_append_toNat (a b : Bool) :
    (BitVec.ofBool a ++ BitVec.ofBool b : BitVec (1 + 1)).toNat = 2 * a.toNat + b.toNat := by
  cases a <;> cases b <;> rfl

theorem getLsbD_toNat (v : Byte) (i : Nat) : (v.getLsbD i).toNat = v.toNat / 2 ^ i % 2 := by
  rw [BitVec.getLsbD, Nat.testBit_eq_decide_div_mod_eq]
  rcases Nat.mod_two_eq_zero_or_one (v.toNat / 2 ^ i) with h | h <;> simp [h]

theorem seven_sub_toNat (r : BitVec 3) : (7 - r).toNat = 7 - r.toNat := by revert r; decide

/-- The pixel of a planar row: twice the high plane's bit plus the low plane's bit (R61, R140). -/
theorem planarPixel_toNat (lo hi : Byte) (flipX : Bool) (px : Fin 8) :
    (planarPixel lo hi flipX px).toNat =
      2 * (hi.toNat / 2 ^ (if flipX then px.val else 7 - px.val) % 2) +
        lo.toNat / 2 ^ (if flipX then px.val else 7 - px.val) % 2 := by
  have hb : (7 - if flipX then 7 - px.val else px.val) = if flipX then px.val else 7 - px.val := by
    split <;> omega
  unfold planarPixel
  erw [ofBool_append_toNat]
  rw [getLsbD_toNat, getLsbD_toNat, hb]

/-- The pixel `TILE.FETCH_ROW` returns in place `px`. -/
theorem fetchRow_get (vram : Memory) (b : BitVec 1) (n : BitVec 9) (r : BitVec 3) (fx fy : Bool) (px : Fin 8) :
    (fetchRow vram b n r fx fy)[px] =
      planarPixel (vram.read (tileRowAddr b n (if fy then 7 - r else r)))
        (vram.read (tileRowAddr b n (if fy then 7 - r else r) + 1)) fx px := by
  simp [fetchRow]

end Sys2Proof.Machine
end

