-- ==== Sys2Proof/Tests/Slice0.lean ====
section
/-! SUPPORT. The model's own tests. Every expected value comes from spec/: the vector or rule is named beside it.
Then one witness per hypothesis of the statements. -/

namespace Sys2Proof.Tests

-- One theorem after the other: a theorem evaluated by the kernel waits for all before it, each on a thread of its own.
set_option Elab.async false

open Sys2Proof Sys2Proof.Machine

/-! ### Helpers -/

/-- The next state of an answer. -/
def nextOf : Answer → Option State
  | .next t => some t
  | .fault _ => none
  | .refused _ => none

/-- The refusal of an answer. -/
def refusalOf : Answer → Option Refusal
  | .next _ => none
  | .fault _ => none
  | .refused r => some r

/-- The fault of an answer. -/
def faultOf : Answer → Option Fault
  | .next _ => none
  | .fault r => some r
  | .refused _ => none

/-- The example table of 95_test_vectors.md is in `State.reset`. -/
abbrev dmg : State := State.reset

/-- CGB mode, from reset. -/
abbrev cgb : State := State.resetWith { Config.standard with mode := .cgb } LcdRegs.zero [] []

/-- `PAL.SET_DMG_BG 0xE4; PAL.SET_DMG_OBJ0 0xE4` leave the palettes as DMG reset does (R121 (c)). -/
def withLcdc (v : Byte) : State := dmg.setReg .lcdc v

/-- A framebuffer cell of an answer. -/
def cellOf (r : Answer) (x : Fin 160) (y : Fin 144) : Option Cell := (nextOf r).map fun t => t.frame.get x y

/-- `LY` and `STAT` of an answer. -/
def lyStatOf (r : Answer) : Option (Byte × Byte) := (nextOf r).map fun t => (t.regs.ly, t.regs.stat)

/-- The outputs of an answer but for the payload of a presentation. -/
def outputsOf (r : Answer) : Option (List Event) :=
  (nextOf r).map fun t => t.events.map fun e => if e.isPresent then .present [] else e

/-! ### Well-formedness: an ill-formed term for each check, and the last legal value -/

theorem test_wf_tile_index : (Instr.tileFetchRow 0 384 0 false false).domainError = some .tileIndex := by decide
theorem test_wf_tile_index_ok : (Instr.tileFetchRow 1 383 7 true true).WellFormed := by decide
theorem test_wf_plot_x : (Instr.fbPlot 160 0 1 0).domainError = some .x := by decide
theorem test_wf_plot_y : (Instr.fbPlot 0 144 1 0).domainError = some .y := by decide
theorem test_wf_plot_q_zero : (Instr.fbPlot 0 0 0 0).domainError = some .q := by decide
theorem test_wf_plot_q_four : (Instr.fbPlot 0 0 4 0).domainError = some .q := by decide
theorem test_wf_plot_q_seven : (Instr.fbPlot 0 0 7 0).domainError = some .q := by decide
theorem test_wf_plot_ok : (Instr.fbPlot 159 143 6 0xFFFFFF).WellFormed := by decide
theorem test_wf_draw_tile_index :
    (Instr.drawTile exampleShades 0 384 false false 0 0 0 0 false).domainError = some .tileIndex := by decide
theorem test_wf_draw_tile_ly :
    (Instr.drawTile exampleShades 0 0 false false 0 0 144 0 false).domainError = some .ly := by decide
theorem test_wf_draw_tile_base :
    (Instr.drawTile exampleShades 0 0 false false 0 0 0 1 false).domainError = some .base := by decide
theorem test_wf_draw_tile_ok :
    (Instr.drawTile exampleShades 1 383 true true (-7) 160 143 6 true).WellFormed := by decide

/-! ### Decoding: the pair (op, fields) of each operation, from the tables of R102 and R108 -/

/-- PRG-1, step 2: `PAL.SET_DMG_BG 0xE4`. -/
theorem test_decode_pal_set_dmg_bg : decode ⟨0, [0xE4]⟩ = .ok (.palSetDmgBg 0xE4) := by rfl
/-- PRG-1, step 3: `PAL.SET_DMG_OBJ0 0xE4`. -/
theorem test_decode_pal_set_dmg_obj0 : decode ⟨1, [0xE4]⟩ = .ok (.palSetDmgObj0 0xE4) := by rfl
/-- PRG-1, step 4: `PAL.SET_DMG_OBJ1 0x1B`. -/
theorem test_decode_pal_set_dmg_obj1 : decode ⟨2, [0x1B]⟩ = .ok (.palSetDmgObj1 0x1B) := by rfl
theorem test_decode_pal_write_cgb_bg : decode ⟨3, [17, 0x83]⟩ = .ok (.palWriteCgbBg 17 0x83) := by rfl
theorem test_decode_pal_write_cgb_obj : decode ⟨4, [63, 0x03]⟩ = .ok (.palWriteCgbObj 63 0x03) := by rfl
theorem test_decode_pal_bg : decode ⟨5, [7]⟩ = .ok (.palBg 7) := by rfl
theorem test_decode_pal_obj : decode ⟨6, [1]⟩ = .ok (.palObj 1) := by rfl
theorem test_decode_tile_fetch_row : decode ⟨7, [1, 383, 7, 0, 1]⟩ = .ok (.tileFetchRow 1 383 7 false true) := by rfl
theorem test_decode_fb_plot : decode ⟨8, [8, 0, 5, 0x555555]⟩ = .ok (.fbPlot 8 0 5 0x555555) := by rfl
theorem test_decode_fb_clear : decode ⟨9, []⟩ = .ok .fbClear := by rfl
theorem test_decode_fb_present : decode ⟨10, []⟩ = .ok .fbPresent := by rfl
theorem test_decode_draw : decode ⟨11, [144]⟩ = .ok (.draw 144) := by rfl
/-- Fields in R102's order: `pal` (four colours), `bank`, `tile_index`, `flip_x`, `flip_y`, `sx`, `sy`, `ly`, `base`,
`sprite`. -/
theorem test_decode_draw_tile :
    decode ⟨12, [0xFFFFFF, 0xAAAAAA, 0x555555, 0, 1, 383, 1, 0, -7, 160, 143, 5, 1]⟩ =
      .ok (.drawTile exampleShades 1 383 true false (-7) 160 143 5 true) := by rfl
theorem test_decode_draw_bg : decode ⟨13, [5]⟩ = .ok (.drawBg 5) := by rfl
theorem test_decode_draw_obj : decode ⟨14, [6]⟩ = .ok (.drawObj 6) := by rfl
theorem test_decode_draw_win : decode ⟨15, [7]⟩ = .ok (.drawWin 7) := by rfl
/-- PRG-1, step 11: `TICK 70224`. -/
theorem test_decode_tick : decode ⟨16, [70224]⟩ = .ok (.tick 70224) := by rfl
theorem test_decode_line : decode ⟨17, []⟩ = .ok .line := by rfl
theorem test_decode_reset : decode ⟨18, []⟩ = .ok .reset := by rfl
theorem test_decode_pal_init : decode ⟨19, []⟩ = .ok .palInit := by rfl

/-- R108: "Operation numbers 20 to 31 select nothing". -/
theorem test_decode_selector_20 : decode ⟨20, []⟩ = .error (.unknownSelector 20) := by rfl
/-- R110: a palette offset above 63 is unrepresentable at the port. -/
theorem test_decode_offset_64 : decode ⟨3, [64, 0]⟩ = .error (.fieldTooWide .offset) := by rfl
theorem test_decode_negative_byte : decode ⟨0, [-1]⟩ = .error (.fieldTooWide .value) := by rfl
theorem test_decode_field_count : decode ⟨17, [0]⟩ = .error (.wrongFieldCount 17) := by rfl

/-- The table word of `TICK` (op 16), whose field is 0. -/
theorem test_table_word_tick : decodeTableWord 8 0x10 = some (.tick 0) := by decide
/-- Bits above the table's mask 0x1F select nothing. -/
theorem test_table_word_mask : decodeTableWord 8 0x31 = some .line := by decide
theorem test_table_word_20 : decodeTableWord 8 20 = none := by decide
/-- A word placed for the next step is what the next step runs: `LINE` from reset makes `LY = 1` (V-TIM-1). -/
theorem test_fetch_word_line : lyStatOf (step (State.reset.withFetchWord 8 17)) = some (1, 0) := by decide +kernel

/-! ### Palette store (V-PAL-1 to V-PAL-5) -/

/-- V-PAL-1. -/
theorem test_set_dmg_bg :
    (nextOf (exec (.palSetDmgBg 0x1B) dmg)).map (fun t => t.pal.bg[0]) =
      some #v[0x000000, 0x555555, 0xAAAAAA, 0xFFFFFF] := by decide +kernel
/-- V-PAL-1: the object palettes stay. -/
theorem test_set_dmg_bg_others :
    (nextOf (exec (.palSetDmgBg 0xFF) dmg)).map (fun t => (t.pal.bg[0][0], t.pal.obj[0][0])) =
      some (0x000000, 0xFFFFFF) := by decide +kernel
/-- R123 on a table whose three lists differ: 0x1B reverses the `obj0` list into `obj[0]`. -/
theorem test_set_dmg_obj0 :
    (nextOf (exec (.palSetDmgObj0 0x1B) (State.resetWith
      { Config.standard with dmgTable := Vector.replicate 256 ⟨exampleShades, #v[1, 2, 3, 4], #v[5, 6, 7, 8]⟩ }
      LcdRegs.zero [] []))).map (fun t => (t.pal.obj[0], t.pal.obj[1])) =
      some (#v[4, 3, 2, 1], #v[5, 6, 7, 8]) := by decide +kernel
/-- V-PAL-1. -/
theorem test_set_dmg_obj1 :
    (nextOf (exec (.palSetDmgObj1 0xD2) dmg)).map (fun t => t.pal.obj[1]) =
      some #v[0x555555, 0xFFFFFF, 0xAAAAAA, 0x000000] := by decide +kernel
/-- D31: a DMG-path operation in CGB mode is refused. -/
theorem test_set_dmg_refused : refusalOf (exec (.palSetDmgObj1 0) cgb) = some (.wrongMode .dmg) := by decide +kernel
/-- V-PAL-4, first write. -/
theorem test_write_cgb_bg :
    (nextOf (exec (.palWriteCgbBg 17 0x00) cgb)).map (fun t => t.pal.bg[2]) =
      some #v[0xFF0000, 0xFFC53A, 0xFFC53A, 0xFFC53A] := by decide +kernel
/-- V-PAL-4, first and second write. -/
theorem test_write_cgb_bg_twice :
    (nextOf (execAll [.palWriteCgbBg 17 0x00, .palWriteCgbBg 16 0xE0] cgb)).map (fun t => t.pal.bg[2][0]) =
      some 0x003A00 := by decide +kernel
/-- V-PAL-4, the object side. -/
theorem test_write_cgb_obj :
    (nextOf (execAll [.palWriteCgbObj 62 0xE0, .palWriteCgbObj 63 0x03] cgb)).map (fun t => t.pal.obj[7][3]) =
      some 0x00FF00 := by decide +kernel
/-- D31: a CGB-path operation in DMG mode is refused. -/
theorem test_write_cgb_refused : refusalOf (exec (.palWriteCgbObj 0 0) dmg) = some (.wrongMode .cgb) := by
  decide +kernel
/-- R129's example. -/
theorem test_pal_bg :
    (nextOf (exec (.palBg 0) cgb)).map (fun t => t.events) =
      some [.palette #v[0xFFC53A, 0xFFC53A, 0xFFC53A, 0xFFC53A]] := by decide +kernel
/-- V-PAL-5: `PAL.OBJ 1` after DMG reset is the table's list. -/
theorem test_pal_obj :
    (nextOf (exec (.palObj 1) dmg)).map (fun t => t.events) =
      some [.palette #v[0xFFFFFF, 0xAAAAAA, 0x555555, 0x000000]] := by decide +kernel
/-- V-PAL-5, with `OBJ_RAM_RESET` all 0xFF. -/
theorem test_pal_init_cgb :
    (nextOf (exec .palInit { cgb with config := { cgb.config with objRamReset := Vector.replicate 64 0xFF } })).map
      (fun t => (t.pal.bg[3][2], t.pal.obj[5][3])) = some (0xFFC53A, 0xFFFFFF) := by decide +kernel
/-- V-PAL-5, DMG: the table's list again after `PAL.SET_DMG_BG 0x00`. -/
theorem test_pal_init_dmg :
    (nextOf (execAll [.palSetDmgBg 0x00, .palInit] dmg)).map (fun t => t.pal.bg[0]) = some exampleShades := by
  decide +kernel
/-- V-PAL-2. -/
theorem test_resolve555 :
    [0x0000, 0x001F, 0x03E0, 0x7C00, 0xFFFF, 0x8000, 0x1F1F, 0x5294, 0x0421].map resolve555 =
      [0x000000, 0xFF0000, 0x00FF00, 0x0000FF, 0xFFFFFF, 0x000000, 0xFFC53A, 0xA5A5A5, 0x080808] := by
  decide +kernel
/-- V-PAL-3. -/
theorem test_expand5 : [0, 1, 3, 15, 16, 30, 31].map expand5 = [0, 8, 25, 123, 132, 247, 255] := by decide +kernel

/-! ### Tile fetcher (V-TILE-1, V-TILE-2) -/

/-- Row 0 and row 7 of tile 2 of V-TILE-1. -/
def tile2 : Memory := [(32, 0x3C), (33, 0x7E), (46, 0xF0), (47, 0xCC)]

/-- V-TILE-1, (0, 2, 0, 1, 1): row 7, reversed. -/
theorem test_fetch_row_flips :
    (nextOf (exec (.tileFetchRow 0 2 0 true true) { dmg with vram := tile2 })).map (fun t => t.events) =
      some [.tileRow #v[0, 0, 2, 2, 1, 1, 3, 3]] := by decide +kernel
/-- V-TILE-2: the last row of the last tile of bank 1. -/
theorem test_fetch_row_last :
    (nextOf (exec (.tileFetchRow 1 383 7 false false) { dmg with vram := [(14334, 0x80), (14335, 0x01)] })).map
      (fun t => t.events) = some [.tileRow #v[1, 0, 0, 0, 0, 0, 0, 2]] := by decide +kernel

/-! ### Framebuffer (V-FB-1, V-FB-2) -/

/-- V-FB-1, steps 1 to 5. -/
theorem test_plot_sequence :
    cellOf (execAll [.fbPlot 8 0 1 0xFFFFFF, .fbPlot 8 0 2 0x000000, .fbPlot 8 0 1 0xAAAAAA, .fbPlot 8 0 3 0xAAAAAA,
      .fbPlot 8 0 2 0x123456] dmg) 8 0 = some 0x03AAAAAA := by decide +kernel
/-- V-FB-1, steps 6 and 7: at equal tags the later draw wins. -/
theorem test_plot_tie :
    cellOf (execAll [.fbPlot 8 0 5 0x555555, .fbPlot 8 0 5 0x111111] dmg) 8 0 = some 0x05111111 := by decide +kernel
/-- V-FB-2, R152's example. -/
theorem test_clear : cellOf (execAll [.fbPlot 159 143 6 0xFFFFFF, .fbClear] dmg) 159 143 = some 0 := by
  decide +kernel
/-- V-FB-2: cell (0, 1) is element 160 of the payload, of 23040. -/
theorem test_present :
    (nextOf (execAll [.fbPlot 0 1 1 0xABCDEF, .fbPresent] dmg)).map (fun t => t.events.map fun e => match e with
      | .present cells => (cells.length, cells[160]?)
      | _ => (0, none)) = some [(23040, some 0x01ABCDEF)] := by decide +kernel
/-- R223: without a display nothing is presented. -/
theorem test_present_absent :
    outputsOf (exec .fbPresent { dmg with config := { dmg.config with displayAttached := false } }) = some [] := by
  decide +kernel

/-- R62 on a cell of R99's form `0xPP_RR_GG_BB`: blue at the lowest address, the tag at the highest. -/
theorem test_cell_bytes : cellBytes 0x05AABBCC = [0xCC, 0xBB, 0xAA, 0x05] := by decide

/-! ### Compositor -/

/-- R160's example: `DRAW 144` changes nothing. -/
theorem test_draw_144 : cellOf (execAll [.fbPlot 0 143 1 0xABCDEF, .draw 144] (withLcdc 0x91)) 0 143 =
    some 0x01ABCDEF := by decide +kernel
/-- V-BG-5: with all layers off `DRAW 0` clears the frame. -/
theorem test_draw_0_clears : cellOf (execAll [.fbPlot 7 9 5 0xABCDEF, .draw 0] (withLcdc 0x80)) 7 9 = some 0 := by
  decide +kernel
/-- R162's example: pixels 0 1 2 3 0 0 0 0 at `sx = 156`; the last four are clipped. -/
theorem test_draw_tile :
    (nextOf (exec (.drawTile #v[0xA, 0xB, 0xC, 0xD] 0 0 false false 156 0 0 0 false)
      { dmg with vram := [(0, 0x50), (1, 0x30)] })).map
      (fun t => [155, 156, 157, 158, 159].map fun x => t.frame.get x 0) =
      some [0, 0x0100000A, 0x0300000B, 0x0300000C, 0x0300000D] := by decide +kernel
/-- R168: a sprite pixel of colour index 0 is not drawn; R169's `P5` is on the others. -/
theorem test_draw_tile_sprite :
    (nextOf (exec (.drawTile #v[0xA, 0xB, 0xC, 0xD] 0 0 false false (-1) 0 0 5 true)
      { dmg with vram := [(0, 0x50), (1, 0x30)] })).map
      (fun t => [0, 1, 2, 3].map fun x => t.frame.get x 0) =
      some [0x0500000B, 0x0500000C, 0x0500000D, 0] := by decide +kernel
/-- V-BG-1: `SCX = 5`, `SCY = 3`, line 0. -/
theorem test_draw_bg_scrolled :
    (nextOf (exec (.drawBg 0) { dmg with
      regs := { dmg.regs with lcdc := 0x91, scx := 5, scy := 3 }
      vram := [(22, 0xF0), (23, 0xCC), (38, 0x08), (6144, 1), (6145, 2)] })).map
      (fun t => [0, 1, 3, 7, 8, 159].map fun x => t.frame.get x 0) =
      some [0x03555555, 0x01FFFFFF, 0x01FFFFFF, 0x03AAAAAA, 0x01FFFFFF, 0x01FFFFFF] := by decide +kernel
/-- V-BG-4: signed tile addressing. -/
theorem test_draw_bg_signed :
    (nextOf (exec (.drawBg 0) { dmg with
      regs := { dmg.regs with lcdc := 0x81 }
      vram := [(2048, 0xFF), (4096, 0xFF), (4097, 0xFF), (6129, 0xFF), (6144, 0x80), (6145, 0x7F)] })).map
      (fun t => [0, 7, 8, 15, 16, 159].map fun x => t.frame.get x 0) =
      some [0x03AAAAAA, 0x03AAAAAA, 0x03555555, 0x03555555, 0x03000000, 0x03000000] := by decide +kernel
/-- V-OBJ-3: eleven candidates, ten counted, the first of them off screen. -/
theorem test_draw_obj_ten :
    (nextOf (exec (.drawObj 0) { dmg with
      regs := { dmg.regs with lcdc := 0x82 }
      vram := [(16, 0xFF), (17, 0xFF)]
      oam := [(0, 16), (2, 1)] ++ (List.range' 1 10).flatMap fun e =>
        [(4 * e, 16), (4 * e + 1, BitVec.ofNat 8 (8 + 8 * e)), (4 * e + 2, 1)] })).map
      (fun t => ([0, 7, 8, 79, 80, 87].map fun x : Fin 160 => t.frame.get x 0, t.spritesDrawn[0])) =
      some ([0, 0, 0x05000000, 0x05000000, 0, 0], 10) := by decide +kernel
/-- V-OBJ-4 (a): a tall sprite upside down; line 0 shows tile 0x31, line 15 tile 0x30. -/
theorem test_draw_obj_tall_flip :
    (nextOf (execAll [.drawObj 0, .drawObj 8, .drawObj 15] { dmg with
      regs := { dmg.regs with lcdc := 0x86 }
      vram := [(768, 0xFF), (799, 0xFF)], oam := [(0, 16), (1, 8), (2, 0x30), (3, 0x40)] })).map
      (fun t => (t.frame.get 0 0, t.frame.get 7 8, t.frame.get 7 15, t.spritesDrawn[15])) =
      some (0x05555555, 0, 0x05AAAAAA, 1) := by decide +kernel
/-- V-WIN-1, `WX = 23`, and V-WIN-2: the first column shown is map column 2, at screen column 32. -/
theorem test_draw_win_offset :
    (nextOf (execAll [.drawBg 0, .drawWin 0] { dmg with
      regs := { dmg.regs with lcdc := 0xF1, wx := 23 }
      vram := [(16, 0xFF), (17, 0xFF), (7170, 1)] })).map
      (fun t => [0, 31, 32, 39, 40, 159].map fun x => t.frame.get x 0) =
      some [0x01FFFFFF, 0x01FFFFFF, 0x06000000, 0x06000000, 0x06FFFFFF, 0x06FFFFFF] := by decide +kernel
/-- V-WIN-2, `WX = 6`: seven pixels of map column 0, at screen column -1. -/
theorem test_draw_win_left :
    (nextOf (execAll [.drawBg 0, .drawWin 0] { dmg with
      regs := { dmg.regs with lcdc := 0xF1, wx := 6 }
      vram := [(16, 0xFF), (17, 0xFF), (7168, 1)] })).map
      (fun t => [0, 6, 7, 159].map fun x => t.frame.get x 0) =
      some [0x06000000, 0x06000000, 0x06FFFFFF, 0x06FFFFFF] := by decide +kernel

/-! ### Timing driver and reset -/

/-- V-TIM-9. -/
theorem test_tick_400_100 :
    (nextOf (exec (.tick 100) { withLcdc 0x80 with lcdCycles := 400 })).map (fun t => (t.regs.ly, t.lcdCycles)) =
      some (1, 44) := by decide +kernel
/-- V-TIM-9. -/
theorem test_tick_1000 :
    (nextOf (exec (.tick 1000) (withLcdc 0x80))).map (fun t => (t.regs.ly, t.lcdCycles)) = some (2, 88) := by
  decide +kernel
/-- V-TIM-2: `LY` 79 to 80 with `LYC = 80`. -/
theorem test_line_coincidence :
    (nextOf (exec .line { dmg with regs := { dmg.regs with lcdc := 0x80, stat := 0x40, lyc := 80, ly := 79 } })).map
      (fun t => (t.regs.ly, t.regs.stat, t.events, t.requests)) =
      some (80, 0x44, [.raised .lcdc], ⟨false, true⟩) := by decide +kernel
/-- V-TIM-6: all causes at once. -/
theorem test_line_all_causes :
    let r := exec .line { dmg with regs := { dmg.regs with lcdc := 0x80, stat := 0xFF, lyc := 144, ly := 143 } }
    lyStatOf r = some (144, 0xFC) ∧
      outputsOf r = some [.raised .lcdc, .raised .lcdc, .present [], .raised .vblank, .raised .lcdc] := by
  decide +kernel
/-- V-RST-1, in the middle of line 77 and after a plot. -/
theorem test_reset :
    (nextOf (execAll [.tick 455, .fbPlot 0 0 6 0xFFFFFF, .reset]
      { dmg with regs := { dmg.regs with lcdc := 0x80, stat := 0xFF, ly := 77 } })).map
      (fun t => (t.regs.ly, t.regs.stat, t.lcdCycles, t.frame.get 0 0, t.events)) =
      some (0, 0xFC, 0, 0, []) := by decide +kernel

/-! ### The host's steps (R82) -/

/-- A register written and read back. -/
theorem test_host_register :
    (nextOf (Sys2Proof.core.run 2 { dmg with pending := [.host (.writeReg .stat 0xFF), .host (.readReg .stat)] })).map
      (fun t => t.events) = some [.hostRead 0xFF] := by decide +kernel
/-- R8: "invalid register reads are treated as zero". -/
theorem test_read_register :
    let s := dmg.setReg .stat 0x7A
    s.readRegister (registerAddress s.config.addresses .stat) = 0x7A ∧ s.readRegister 11 = 0 := by decide
/-- R226: two raises of one kind are one bit, at its position. -/
theorem test_request_bits :
    ((dmg.raise .lcdc).raise .lcdc).requestBits = 2 ^ irqPosition dmg.config.irqBits .lcdc := by decide +kernel
/-- R37: VRAM has 16384 bytes. -/
theorem test_host_vram_end :
    faultOf (step { dmg with pending := [.host (.writeVram 16384 1)] }) = some (.noSuchVramByte 16384) := by
  decide +kernel
/-- Writing back what an unlisted byte reads as removes the entry. -/
theorem test_memory_canonical : Memory.write (Memory.write [(3, 7)] 5 9) 3 0 = [(5, 9)] := by decide

/-! ### Witnesses: for each statement with hypotheses, values that meet them -/

/-- SelectorsAbove19SelectNothing, both ends of 20 to 31. -/
theorem witness_selectors :
    (20 ≤ (⟨20, []⟩ : Command).op.toNat ∧ 20 ≤ (⟨31, [5]⟩ : Command).op.toNat) ∧
    ∃ s : State, s.pending = .command ⟨31, [5]⟩ :: [] :=
  ⟨by decide, { dmg with pending := [.command ⟨31, [5]⟩] }, rfl⟩

/-- EncodeOfDecodeIsIdentity. -/
theorem witness_encode_of_decode : decode ⟨16, [70224]⟩ = .ok (.tick 70224) := by rfl

/-- StepRunsDecodedCommand. -/
theorem witness_step_runs : ∃ s : State, s.pending = .command ⟨11, [143]⟩ :: [.host (.setHdma true)] ∧
    decode ⟨11, [143]⟩ = .ok (.draw 143) :=
  ⟨{ dmg with pending := [.command ⟨11, [143]⟩, .host (.setHdma true)] }, rfl, rfl⟩

/-- StepPerformsHostSteps, both clauses. -/
theorem witness_step_host : (∃ s : State, s.pending = .host (.setHdma true) :: []) ∧ dmg.pending = [] :=
  ⟨⟨{ dmg with pending := [.host (.setHdma true)] }, rfl⟩, rfl⟩

/-- InDomainOperationsComplete: a form with a domain, a DMG form and a CGB form. -/
theorem witness_in_domain :
    ((Instr.fbPlot 159 143 6 0).WellFormed ∧ ∀ m, neededMode (.fbPlot 159 143 6 0) = some m → dmg.config.mode = m) ∧
    ((Instr.palSetDmgBg 0).WellFormed ∧ ∀ m, neededMode (.palSetDmgBg 0) = some m → dmg.config.mode = m) ∧
    ((Instr.palWriteCgbObj 63 0).WellFormed ∧
      ∀ m, neededMode (.palWriteCgbObj 63 0) = some m → cgb.config.mode = m) := by
  refine ⟨⟨by decide, ?_⟩, ⟨by decide, ?_⟩, ⟨by decide, ?_⟩⟩ <;> intro m h <;> cases h <;> rfl

/-- OutOfDomainOperandsRefused: each field that has a domain of its own. -/
theorem witness_out_of_domain :
    (Instr.tileFetchRow 0 511 0 false false).domainError = some .tileIndex ∧
    (Instr.fbPlot 255 0 1 0).domainError = some .x ∧ (Instr.fbPlot 159 255 1 0).domainError = some .y ∧
    (Instr.fbPlot 159 143 7 0).domainError = some .q ∧
    (Instr.drawTile exampleShades 0 383 false false 0 0 255 0 false).domainError = some .ly ∧
    (Instr.drawTile exampleShades 0 383 false false 0 0 143 7 false).domainError = some .base := by decide

/-- PalettePathsFollowMode, SetDmgBgMapsShades, SetDmgObjMapsShades, WriteCgbBgStoresAndResolves,
WriteCgbObjStoresAndResolves, PaletteInitSeedsStore: a state of each mode; and in the `if` of the writes both cases. -/
theorem witness_modes : dmg.config.mode = .dmg ∧ cgb.config.mode = .cgb ∧
    (∃ a : Fin 64, a.val = (63#6).toNat) ∧ (∃ a : Fin 64, a.val ≠ (63#6).toNat) ∧
    ∃ (i : Fin 8) (j : Fin 4), 4 * i.val + j.val = (63#6).toNat / 2 :=
  ⟨rfl, rfl, ⟨63, rfl⟩, ⟨62, by decide⟩, 7, 3, by decide⟩

/-- CgbPaletteRoundTrip: the 64 offsets, highest first. -/
theorem witness_round_trip :
    cgb.config.mode = .cgb ∧ ∀ o : BitVec 6, o ∈ (List.range 64).reverse.map (BitVec.ofNat 6) :=
  ⟨rfl, by decide +kernel⟩

/-- FetchRowReturnsPlanarPixels: the highest tile. -/
theorem witness_fetch_row : (383#9).toNat < 384 := by decide

/-- A memory whose tile 0 of bank 0 has the same two bytes in every row. -/
def uniformTile (lo hi : Byte) : Memory := (List.range 16).map fun a => (a, if a % 2 = 0 then lo else hi)

/-- FetchRowFlipAndUniformLaws, the uniform clause: each of its four cases. -/
theorem witness_uniform :
    ([(0, 0), (0xFF, 0xFF), (0xFF, 0), (0, 0xFF)] : List (Byte × Byte)).all (fun p => (List.range 16).all fun k =>
      (uniformTile p.1 p.2).read ((0#1).toNat * 8192 + (0#9).toNat * 16 + k) == if k % 2 = 0 then p.1 else p.2) =
      true := by decide +kernel

/-- PlotArbitratesByTag: the last column and line; and the condition of its `if` met and not met. -/
theorem witness_plot :
    ((159#8).toNat < 160 ∧ (143#8).toNat < 144 ∧ (1#3 = 1 ∨ 1#3 = 2 ∨ 1#3 = 3 ∨ 1#3 = 5 ∨ 1#3 = 6)) ∧
    (dmg.frame.get 159 143).toNat / 2 ^ 24 ≤ (1#3).toNat ∧ ¬(0x02000000#32).toNat / 2 ^ 24 ≤ (1#3).toNat := by
  decide +kernel

/-- ArbitrationTable: a written and a kept entry, at legal tags. -/
theorem witness_arbitration :
    legalTag (cellTag 0x01FFFFFF) ∧ legalTag (cellTag 0x06000000) ∧
    plotCell 0x01FFFFFF 2 0 = mkCell 2 0 ∧ plotCell 0x06000000 5 0 = 0x06000000 := by decide

/-- DrawTilePlotsOneRow: the domain; a column inside the tile row (with its `px` and `row`) and one outside. -/
theorem witness_draw_tile :
    ((383#9).toNat < 384 ∧ (143#8).toNat < 144 ∧ (6#3 = 0 ∨ 6#3 = 2 ∨ 6#3 = 5 ∨ 6#3 = 6)) ∧
    (∃ (x : Fin 160) (y : Fin 144) (px row : Fin 8),
      y.val = (143#8).toNat ∧ (x.val : Int) = 152 + px.val ∧ ((143#8).toNat : Int) = 136 + row.val) ∧
    ∃ (x : Fin 160) (y : Fin 144), ¬(y.val = (143#8).toNat ∧ (152 : Int) ≤ x.val ∧ (x.val : Int) ≤ 152 + 7 ∧
      (136 : Int) ≤ (143#8).toNat ∧ ((143#8).toNat : Int) ≤ 136 + 7) :=
  ⟨by decide, ⟨159, 143, 7, 7, by decide⟩, 151, 143, by decide⟩

/-- BackgroundIsScrolledPlane, DrawTouchesOnlyItsLine, DrawRunsPassesInOrder: lines 143 and 144, sprites disabled. -/
theorem witness_lines : 144 ≤ (144#8).toNat ∧ (143#8).toNat < 144 ∧ (∃ l : Fin 144, l.val = (143#8).toNat) ∧
    dmg.regs.lcdc.getLsbD 1 = false :=
  ⟨by decide, by decide, ⟨143, by decide⟩, by decide⟩

/-- SpritePassDrawsFirstTen: line 143 with the counter at 0, and at 10. -/
theorem witness_sprite_pass :
    (∃ l : Fin 144, l.val = (143#8).toNat ∧ dmg.spritesDrawn[l] ≤ 10) ∧
    ∃ (s : State) (l : Fin 144), l.val = (0#8).toNat ∧ s.spritesDrawn[l] = 10 ∧ s.spritesDrawn[l] ≤ 10 :=
  ⟨⟨143, by decide +kernel⟩, { dmg with spritesDrawn := Vector.replicate 144 10 }, 0, by decide +kernel⟩

/-- SpriteTileSelection: a visible short sprite; a tall one on the last line of its top half and the first of its
bottom half. -/
theorem witness_sprite_tile :
    spriteVisible false ⟨16, 8, 1, 0⟩ 7 = true ∧
    (spriteVisible true ⟨16, 8, 0x30, 0x40⟩ 7 = true ∧ ((7 : Fin 144).val : Int) < ((16#8).toNat : Int) - 8) ∧
    (spriteVisible true ⟨16, 8, 0x30, 0x40⟩ 8 = true ∧ ((16#8).toNat : Int) - 8 ≤ (8 : Fin 144).val) := by
  decide +kernel

/-- WindowShowsDoubledOffset: the three ways to show nothing, at their first value; the last `WX` and the first line
that show something, with a shown column (`WX = 23`: column 2 at 32), and a column left of it. -/
theorem witness_window :
    (144 ≤ (144#8).toNat ∧ (4#8).toNat < (5#8).toNat ∧ 167 ≤ (167#8).toNat) ∧
    ((5#8).toNat < 144 ∧ (5#8).toNat ≤ (5#8).toNat ∧ (166#8).toNat < 167) ∧
    (∃ (x : Fin 160) (px : Fin 8), (((23#8).toNat : Int) - 7).tdiv 8 ≤ (2 : Nat) ∧
      (x.val : Int) = ((23#8).toNat : Int) - 7 + 8 * (2 : Nat) + px.val) ∧
    (∃ x : Fin 160, ¬((23#8).toNat : Int) - 7 + 8 * (((23#8).toNat : Int) - 7).tdiv 8 ≤ x.val) ∧
    legalTag (cellTag 0x05FFFFFF) :=
  ⟨by decide, by decide, ⟨32, 0, by decide⟩, ⟨31, by decide⟩, by decide⟩

/-- LineUpdatesStat, LineDrawsAndKeepsRest, DisabledLcdOnlyCounts: the LCD disabled and enabled, a visible line with
the coincidence enabled, and a line with it disabled. -/
theorem witness_line :
    dmg.regs.lcdc.getLsbD 7 = false ∧ (withLcdc 0x80).regs.lcdc.getLsbD 7 = true ∧
    (∃ s : State, s.regs.lcdc.getLsbD 7 = true ∧ s.regs.ly.toNat < 144 ∧ s.regs.stat.getLsbD 6 = true ∧
      s.regs.lyc.toNat = s.regs.ly.toNat + 1) ∧
    ¬((withLcdc 0x80).regs.ly.toNat < 144 ∧ (withLcdc 0x80).regs.stat.getLsbD 6 = true) ∧
    456 ≤ dmg.lcdCycles + 456 :=
  ⟨by decide, by decide, ⟨{ dmg with regs := { dmg.regs with lcdc := 0x80, stat := 0x40, ly := 143, lyc := 144 } },
    by decide⟩, by decide, by decide⟩

/-- TicksAdd, RequestBitsRecordRaises, OnlyLyAndStatAreWritten, PaletteRegistersAreNotRead: an operation that
answers a next state and changes the scanline. -/
theorem witness_tick : ∃ t, exec (.tick 455) dmg = .next t := ⟨_, rfl⟩

/-- ShortTickOnlyAccumulates: the longest. -/
theorem witness_short_tick : dmg.lcdCycles + 455 < 456 := by decide

/-- FrameEventCounts, ModeLagsLyByOneLine: the first and the last line. -/
theorem witness_frame :
    (withLcdc 0x80).lcdCycles = 0 ∧ (withLcdc 0x80).regs.ly.toNat < 154 ∧ (withLcdc 0x80).regs.lcdc.getLsbD 7 = true ∧
    ((withLcdc 0x80).setReg .ly 153).lcdCycles = 0 ∧ ((withLcdc 0x80).setReg .ly 153).regs.ly.toNat < 154 ∧
    ((withLcdc 0x80).setReg .ly 153).regs.lcdc.getLsbD 7 = true := by decide

/-- OnlyLyAndStatAreWritten (last clause) and PalettesPersist: operations that write neither. -/
theorem witness_persist : (∃ t, exec (.drawWin 0) dmg = .next t) ∧
    writesScanline (.drawWin 0) = false ∧ writesPalettes (.tick 1) = false ∧ ∃ t, exec (.tick 1) dmg = .next t :=
  ⟨⟨_, rfl⟩, rfl, rfl, _, rfl⟩

/-- ResetMeetsInvariant: memories in canonical form that list their last byte; one that is not in that form. -/
theorem witness_reset_memory :
    Memory.wf vramSize [(0, 1), (16383, 255)] ∧ Memory.wf oamSize [(159, 1)] ∧ ¬Memory.wf oamSize [(160, 1)] ∧
    ¬Memory.wf oamSize [(3, 0)] := by decide

/-- StepKeepsInvariant: a state with something to do that meets the invariant, and whose step answers. -/
theorem witness_invariant : ∃ s t : State, s.Inv ∧ step s = .next t ∧ s.pending ≠ [] := by
  refine ⟨{ dmg with pending := [.command ⟨17, []⟩] }, _, ⟨?_, ?_, ?_, ?_, ?_⟩, rfl, by simp⟩
  · exact fun x y => .inl (by simp [dmg, State.reset, State.resetWith, Frame.get, Frame.cleared, cellTag])
  · intro l
    simp [dmg, State.reset, State.resetWith]
  · show (0 : Nat) < 456
    decide
  · exact ⟨by decide, by decide⟩
  · exact fun h => nomatch h

/-- ResetStateValues: a CGB instance, with the fill 0x1F, and a DMG one. -/
theorem witness_reset_values :
    (cgb.config.mode = .cgb ∧ cgb.config.cgbBgRamFill = 0x1F) ∧ Config.standard.mode = .dmg := ⟨⟨rfl, rfl⟩, rfl⟩

/-- RegistersAtTheirAddresses: addresses that differ, and an address of no register. -/
theorem witness_addresses :
    (∀ r q, registerAddress dmg.config.addresses r = registerAddress dmg.config.addresses q → r = q) ∧
    ∀ r, registerAddress dmg.config.addresses r ≠ 11 := by
  refine ⟨fun r q => ?_, fun r => ?_⟩
  · cases r <;> cases q <;> decide
  · cases r <;> decide

/-- RequestRegisterBits: positions that differ, and a position of neither. -/
theorem witness_irq_bits : dmg.config.irqBits.vblank ≠ dmg.config.irqBits.lcdc ∧
    0 ≠ dmg.config.irqBits.vblank ∧ 0 ≠ dmg.config.irqBits.lcdc := by decide

/-- DmgTickIgnoresBank1: a memory that differs in the first byte of bank 1 only. -/
theorem witness_bank1 :
    dmg.config.mode = .dmg ∧ (∀ a, a < 8192 → Memory.read [(8192, 0xFF)] a = dmg.vram.read a) ∧
    Memory.read [(8192, 0xFF)] 8192 ≠ dmg.vram.read 8192 ∧ ∃ t, exec (.tick 455) dmg = .next t := by
  refine ⟨rfl, fun a h => ?_, by decide, _, rfl⟩
  show (if a = 8192 then _ else _) = _
  rw [if_neg (by omega)]
  rfl

/-- HostAccessesRegisters, HostControlsInputsAndRequests: a state with each host step first. -/
theorem witness_host : ∀ h : HostStep, ∃ s : State, s.pending = .host h :: [] :=
  fun h => ⟨{ dmg with pending := [.host h] }, rfl⟩

/-- The memories of `State.reset` are in canonical form. -/
theorem witness_empty_memories : dmg.MemoryCanonical := ⟨by decide, by decide⟩

/-- HostAccessesVramAndOam: canonical memories with each host step first, and the last offset inside and the first
outside of each memory. -/
theorem witness_host_memory : (∀ h : HostStep, ∃ s : State, s.MemoryCanonical ∧ s.pending = .host h :: []) ∧
    (16383 < 16384 ∧ 16384 ≤ 16384 ∧ 159 < 160 ∧ 160 ≤ 160) :=
  ⟨fun h => ⟨{ dmg with pending := [.host h] }, witness_empty_memories, rfl⟩, by decide⟩

end Sys2Proof.Tests
end

section
/-! PROOFS. The palette store (40_palette_store.md): what a CGB write leaves in its side of the store, the fields of
`Resolve555`, and the palette reads. -/

namespace Sys2Proof.Machine

/-! ### CGB writes -/

theorem exec_palWriteCgbBg (o : BitVec 6) (v : Byte) (s : State) :
    exec (.palWriteCgbBg o v) s = s.inMode .cgb { s with pal := s.pal.writeBg o v } := rfl

theorem exec_palWriteCgbObj (o : BitVec 6) (v : Byte) (s : State) :
    exec (.palWriteCgbObj o v) s = s.inMode .cgb { s with pal := s.pal.writeObj o v } := rfl

/-- Every byte of a palette RAM after one byte was stored. -/
theorem paletteRam_set_get (ram : Vector Byte 64) (o : BitVec 6) (v : Byte) (a : Fin 64) :
    (ram.set o.toNat v o.isLt)[a] = if a.val = o.toNat then v else ram[a] := by
  simp only [Fin.getElem_fin, Vector.getElem_set, eq_comm]

/-- Settles O12: the completed write is `PaletteStore.writeBg`, whose byte and whose slot are read back one by one. -/
theorem writeCgbBgStoresAndResolves : Obligations.WriteCgbBgStoresAndResolves := by
  intro s o v hcgb
  refine ⟨{ s with pal := s.pal.writeBg o v }, ?_, rfl, ?byte, ?colour⟩
  · rw [exec_palWriteCgbBg, State.inMode_next]
    exact ⟨hcgb, rfl⟩
  case byte => exact paletteRam_set_get s.pal.bgRam o v
  case colour => exact writeSlot_get s.pal.bg (s.pal.bgRam.set o.toNat v o.isLt) o

/-- Settles O13: as O12, with `PaletteStore.writeObj`. -/
theorem writeCgbObjStoresAndResolves : Obligations.WriteCgbObjStoresAndResolves := by
  intro s o v hcgb
  refine ⟨{ s with pal := s.pal.writeObj o v }, ?_, rfl, ?byte, ?colour⟩
  · rw [exec_palWriteCgbObj, State.inMode_next]
    exact ⟨hcgb, rfl⟩
  case byte => exact paletteRam_set_get s.pal.objRam o v
  case colour => exact writeSlot_get s.pal.obj (s.pal.objRam.set o.toNat v o.isLt) o

/-! ### `Resolve555` -/

/-- A colour as a number: red in bits 23..16, green in 15..8, blue in 7..0 (R31). -/
theorem color_toNat (r g b : Byte) :
    (r ++ g ++ b : Color).toNat = 65536 * r.toNat + 256 * g.toNat + b.toNat := by
  have hb := b.isLt
  have hg := g.isLt
  rw [BitVec.toNat_append, BitVec.toNat_append, ← Nat.shiftLeft_add_eq_or_of_lt hg,
    ← Nat.shiftLeft_add_eq_or_of_lt hb, Nat.shiftLeft_eq, Nat.shiftLeft_eq]
  omega

/-- `Resolve555` with each five-bit field written as arithmetic on the word. -/
theorem resolve555_eq (w : BitVec 16) :
    resolve555 w = expand5 (BitVec.ofNat 5 w.toNat) ++ expand5 (BitVec.ofNat 5 (w.toNat / 32)) ++
      expand5 (BitVec.ofNat 5 (w.toNat / 1024)) := by
  simp [resolve555, BitVec.extractLsb', Nat.shiftRight_eq_div_pow]

/-- A field below bit 15 does not see bit 15. -/
theorem extractLsb'_and_7FFF (w : BitVec 16) (start : Nat) (h : start + 5 ≤ 15) :
    (w &&& 0x7FFF).extractLsb' start 5 = w.extractLsb' start 5 := by
  ext i hi
  have hmask : (0x7FFF : BitVec 16).getLsbD (start + i) = true := by
    rw [show (0x7FFF : BitVec 16) = BitVec.ofNat 16 (2 ^ 15 - 1) from rfl, BitVec.getLsbD_ofNat,
      Nat.testBit_two_pow_sub_one, Bool.and_eq_true, decide_eq_true_eq, decide_eq_true_eq]
    omega
  rw [BitVec.getElem_extractLsb', BitVec.getElem_extractLsb', BitVec.getLsbD_and, hmask, Bool.and_true]

theorem resolve555_and_7FFF (w : BitVec 16) : resolve555 (w &&& 0x7FFF) = resolve555 w := by
  simp only [resolve555]
  rw [extractLsb'_and_7FFF w 0 (by decide), extractLsb'_and_7FFF w 5 (by decide), extractLsb'_and_7FFF w 10 (by decide)]

/-- Settles O16: the three bytes of the colour, as digits in base 256, are the three expanded fields. -/
theorem resolveTakesThreeFields : Obligations.ResolveTakesThreeFields := by
  intro w
  have hg := (expand5 (BitVec.ofNat 5 (w.toNat / 32))).isLt
  have hb := (expand5 (BitVec.ofNat 5 (w.toNat / 1024))).isLt
  refine ⟨?red, ?green, ?blue, (resolve555_and_7FFF w).symm⟩
  all_goals
    rw [resolve555_eq, color_toNat]
    omega

/-! ### Palette reads -/

theorem exec_palBg (k : BitVec 3) (s : State) :
    exec (.palBg k) s = .next (s.emit (.palette (s.pal.bg[k.toNat]'k.isLt))) := rfl

theorem exec_palObj (k : BitVec 3) (s : State) :
    exec (.palObj k) s = .next (s.emit (.palette (s.pal.obj[k.toNat]'k.isLt))) := rfl

/-- Settles O17: each read is one output, and `State.emit` appends it to the events. -/
theorem paletteReadsReturnPalette : Obligations.PaletteReadsReturnPalette := by
  intro s k
  rw [exec_palBg, exec_palObj]
  exact ⟨rfl, rfl⟩

end Sys2Proof.Machine
end

section
/-! PROOFS. The tile fetcher (41_tile_fetcher.md): the completed fetch, and where a flipped row's bytes stand. -/

namespace Sys2Proof.Machine

theorem exec_tileFetchRow_next (b : BitVec 1) (n : BitVec 9) (r : BitVec 3) (fx fy : Bool) (s : State)
    (hn : n.toNat < 384) :
    exec (.tileFetchRow b n r fx fy) s = .next (s.emit (.tileRow (fetchRow s.vram b n r fx fy))) :=
  if_pos (decide_eq_true hn)

/-- With `flip_y` the low plane byte is that of row `7 - row`, and no bit of the subtraction is lost (R140). -/
theorem tileRowAddr_flipY (b : BitVec 1) (n : BitVec 9) (r : BitVec 3) (fy : Bool) :
    tileRowAddr b n (if fy then 7 - r else r) =
      b.toNat * 8192 + n.toNat * 16 + (if fy then 7 - r.toNat else r.toNat) * 2 := by
  cases fy with
  | false => rfl
  | true => exact congrArg (b.toNat * 8192 + n.toNat * 16 + · * 2) (seven_sub_toNat r)

/-- Settles O19: the one output is the row `fetchRow` answers, whose pixels are read at the flipped address. -/
theorem fetchRowReturnsPlanarPixels : Obligations.FetchRowReturnsPlanarPixels := by
  intro s b n r fx fy hn
  refine ⟨fetchRow s.vram b n r fx fy, exec_tileFetchRow_next b n r fx fy s hn, fun px => ?pixel⟩
  case pixel => rw [fetchRow_get, planarPixel_toNat, tileRowAddr_flipY]

end Sys2Proof.Machine
end

section
/-! PROOFS. The framebuffer (42_framebuffer.md): `FB.CLEAR` replaces the frame and no other part of the state. -/

namespace Sys2Proof.Machine

theorem exec_fbClear (s : State) : exec .fbClear s = .next { s with frame := Frame.cleared } := rfl

/-- Settles O25: the answer differs from `s` in its frame alone, and every cell of `Frame.cleared` is 0. -/
theorem clearZeroesEveryCell : Obligations.ClearZeroesEveryCell := by
  intro s
  refine ⟨{ s with frame := Frame.cleared }, exec_fbClear s, ?frame, ?cells⟩
  case frame => rfl
  case cells => exact Frame.get_cleared

end Sys2Proof.Machine
end

section
/-! PROOFS. The scanline compositor (43_compositor.md): the fields of a map entry as arithmetic on the two bytes read,
and the passes of `DRAW`, each as the operation that runs it alone. -/

namespace Sys2Proof.Machine

/-! ### Map entries -/

/-- `256 + sext_8(n)` keeps a byte from 128 up and adds 256 to one below (R104). -/
theorem tileIndexOf_toNat (u : Bool) (n : Byte) :
    (tileIndexOf u n).toNat = if u = true ∨ 128 ≤ n.toNat then n.toNat else 256 + n.toNat := by
  have hn := n.isLt
  cases u with
  | true =>
    simp only [tileIndexOf, if_true, true_or, BitVec.toNat_ofNat]
    omega
  | false =>
    simp only [tileIndexOf, Bool.false_eq_true, if_false, false_or, BitVec.toNat_ofInt, BitVec.toInt_eq_toNat_cond]
    split_ifs <;> omega

theorem mapAttr_toNat (m : Mode) (vram : Memory) (a : Nat) :
    (mapAttr m vram a).toNat = if m = .cgb then (vram.read (8192 + a)).toNat else 0 := by
  cases m <;> rfl

theorem extractLsb'_low3_toNat (v : Byte) : (v.extractLsb' 0 3).toNat = v.toNat % 8 := by
  simp [BitVec.extractLsb'_toNat]

theorem extractLsb'_bit_toNat (v : Byte) (i : Nat) : (v.extractLsb' i 1).toNat = v.toNat / 2 ^ i % 2 := by
  simp [BitVec.extractLsb'_toNat, Nat.shiftRight_eq_div_pow]

theorem getLsbD_eq_true_iff (v : Byte) (i : Nat) : v.getLsbD i = true ↔ v.toNat / 2 ^ i % 2 = 1 := by
  rw [← getLsbD_toNat, Bool.toNat_eq_one]

/-- Settles O22: each field is read off the map byte or the attribute byte, whose value `mapAttr_toNat` gives. -/
theorem mapEntryFields : Obligations.MapEntryFields := by
  intro m vram bg u off ty tx a attr e
  have hattr : (mapAttr m vram a).toNat = attr := mapAttr_toNat m vram a
  refine ⟨tileIndexOf_toNat u (vram.read a), ?pal, ?bank, ?flipX, ?flipY⟩
  case pal => simp only [← hattr, ← extractLsb'_low3_toNat]; rfl
  case bank => rw [← hattr]; exact extractLsb'_bit_toNat _ 3
  case flipX => rw [← hattr]; exact getLsbD_eq_true_iff _ 5
  case flipY => rw [← hattr]; exact getLsbD_eq_true_iff _ 6

/-! ### The passes of `DRAW` -/

section
variable (s : State) {ly : Byte} {l : Fin 144} (h : l.val = ly.toNat)
include h

theorem State.onLine_of_val (p : State → Fin 144 → State) : s.onLine ly p = p s l := by
  rw [s.onLine_visible p (h ▸ l.isLt)]
  exact congrArg (p s) (Fin.ext h.symm)

theorem exec_draw_visible : exec (.draw ly) s = .next (s.drawLine l) :=
  congrArg Host.Outcome.next (s.onLine_of_val h _)

theorem exec_drawBg_visible : exec (.drawBg ly) s = .next (s.drawBgLine l) :=
  congrArg Host.Outcome.next (s.onLine_of_val h _)

theorem exec_drawObj_visible : exec (.drawObj ly) s = .next (s.drawObjLine l) :=
  congrArg Host.Outcome.next (s.onLine_of_val h _)

theorem exec_drawWin_visible : exec (.drawWin ly) s = .next (s.drawWinLine l) :=
  congrArg Host.Outcome.next (s.onLine_of_val h _)

/-- The line is 0 as a byte exactly when it is 0 as a row of the framebuffer. -/
theorem State.startLine_of_val :
    s.startLine l = { s with
      frame := if ly = 0 then Frame.cleared else s.frame
      spritesDrawn := s.spritesDrawn.set l 0 } := by
  have h0 : l = 0 ↔ ly = 0 := by rw [Fin.ext_iff, BitVec.toNat_eq, h]; rfl
  simp only [State.startLine, h0]

end

/-- A pass gated by a bit: its operation when the bit is set, else the state as it was. -/
theorem exec_gated {i : Instr} {s t : State} (h : exec i s = .next t) (b : Bool) :
    if b then exec i s = .next (if b then t else s) else (if b then t else s) = s := by
  cases b with
  | true => exact h
  | false => rfl

/-- Settles O32: the intermediate states are those of `State.drawLine_eq`, and each gated step is `exec_gated` of its
pass. -/
theorem drawRunsPassesInOrder : Obligations.DrawRunsPassesInOrder := by
  intro s ly l hl
  refine ⟨_, _, _, _, s.startLine_of_val hl, exec_gated (exec_drawBg_visible _ hl) _,
    exec_gated (exec_drawObj_visible _ hl) _, exec_gated (exec_drawWin_visible _ hl) _, ?draw⟩
  case draw =>
    rw [exec_draw_visible s hl, State.drawLine_eq]
    rfl

end Sys2Proof.Machine
end

section
/-! PROOFS. Commands and operations (30_encoding.md): each format's decoder answers an operation exactly for the
fields the encoder writes, so decoding and encoding are inverse to each other. -/

namespace Sys2Proof

/-! ### Reading one field -/

theorem readBits_eq_ok {f : Field} {w : Nat} {v : Int} {b : BitVec w} : readBits f w v = .ok b ↔ v = b.toNat :=
  ⟨fun h => (eq_of_readBits h).symm, fun h => h ▸ readBits_toNat f b⟩

theorem readBool_eq_ok {f : Field} {v : Int} {b : Bool} : readBool f v = .ok b ↔ v = boolField b :=
  ⟨fun h => (eq_of_readBool h).symm, fun h => h ▸ readBool_boolField f b⟩

theorem readNat_eq_ok {f : Field} {v : Int} {n : Nat} : readNat f v = .ok n ↔ v = n :=
  ⟨fun h => (eq_of_readNat h).symm, fun h => h ▸ readNat_natCast f n⟩

theorem Except.bind_eq_ok_iff {α β : Type} {x : Except DecodeError α} {k : α → Except DecodeError β} {r : β} :
    (x >>= k) = .ok r ↔ ∃ a, x = .ok a ∧ k a = .ok r :=
  ⟨Except.bind_ok, fun ⟨_, hx, hk⟩ => hx ▸ hk⟩

theorem readPalette_eq_ok {c0 c1 c2 c3 : Int} {p : Palette} :
    readPalette c0 c1 c2 c3 = .ok p ↔ [c0, c1, c2, c3] = paletteFields p := by
  simp only [readPalette, Except.bind_eq_ok_iff, readBits_eq_ok, paletteFields, List.cons.injEq, and_true]
  constructor
  · rintro ⟨b0, rfl, b1, rfl, b2, rfl, b3, rfl, h⟩
    cases h
    exact ⟨rfl, rfl, rfl, rfl⟩
  · rintro ⟨h0, h1, h2, h3⟩
    exact ⟨_, h0, _, h1, _, h2, _, h3, congrArg Except.ok (palette_eta p)⟩

/-! ### The formats (R102) -/

section
variable {op : BitVec 5} {fs : List Int} {i : Instr}

theorem decodeNone_eq_ok {j : Instr} : decodeNone j op fs = .ok i ↔ fs = [] ∧ j = i := by
  cases fs <;> simp [decodeNone]

theorem decodeV8_eq_ok {mk : Byte → Instr} :
    decodeV8 mk op fs = .ok i ↔ ∃ v : Byte, fs = [(v.toNat : Int)] ∧ mk v = i := by
  unfold decodeV8
  split
  · simp [Except.bind_eq_ok_iff, readBits_eq_ok]
  · simp_all

theorem decodeO6V8_eq_ok {mk : BitVec 6 → Byte → Instr} :
    decodeO6V8 mk op fs = .ok i ↔
      ∃ (o : BitVec 6) (v : Byte), fs = [(o.toNat : Int), v.toNat] ∧ mk o v = i := by
  unfold decodeO6V8
  split
  · simp [Except.bind_eq_ok_iff, readBits_eq_ok, and_assoc]
  · simp_all

theorem decodeI3_eq_ok {mk : BitVec 3 → Instr} :
    decodeI3 mk op fs = .ok i ↔ ∃ k : BitVec 3, fs = [(k.toNat : Int)] ∧ mk k = i := by
  unfold decodeI3
  split
  · simp [Except.bind_eq_ok_iff, readBits_eq_ok]
  · simp_all

theorem decodeLY8_eq_ok {mk : Byte → Instr} :
    decodeLY8 mk op fs = .ok i ↔ ∃ ly : Byte, fs = [(ly.toNat : Int)] ∧ mk ly = i := by
  unfold decodeLY8
  split
  · simp [Except.bind_eq_ok_iff, readBits_eq_ok]
  · simp_all

theorem decodeN_eq_ok : decodeN op fs = .ok i ↔ ∃ n : Nat, fs = [(n : Int)] ∧ .tick n = i := by
  unfold decodeN
  split
  · simp [Except.bind_eq_ok_iff, readNat_eq_ok]
  · simp_all

theorem decodeFetch_eq_ok :
    decodeFetch op fs = .ok i ↔ ∃ (b : BitVec 1) (t : BitVec 9) (r : BitVec 3) (fx fy : Bool),
      fs = [(b.toNat : Int), t.toNat, r.toNat, boolField fx, boolField fy] ∧ .tileFetchRow b t r fx fy = i := by
  unfold decodeFetch
  split
  · simp [Except.bind_eq_ok_iff, readBits_eq_ok, readBool_eq_ok, and_assoc, -Bool.exists_bool]
  · simp_all

theorem decodePlot_eq_ok :
    decodePlot op fs = .ok i ↔ ∃ (x y : Byte) (q : Tag) (c : Color),
      fs = [(x.toNat : Int), y.toNat, q.toNat, c.toNat] ∧ .fbPlot x y q c = i := by
  unfold decodePlot
  split
  · simp [Except.bind_eq_ok_iff, readBits_eq_ok, and_assoc]
  · simp_all

theorem decodeTile_eq_ok :
    decodeTile op fs = .ok i ↔ ∃ (p : Palette) (b : BitVec 1) (t : BitVec 9) (fx fy : Bool) (sx sy : Int) (ly : Byte)
      (base : Tag) (sprite : Bool),
      fs = paletteFields p ++
        [(b.toNat : Int), t.toNat, boolField fx, boolField fy, sx, sy, ly.toNat, base.toNat, boolField sprite] ∧
      .drawTile p b t fx fy sx sy ly base sprite = i := by
  unfold decodeTile
  split
  · simp [Except.bind_eq_ok_iff, readPalette_eq_ok, readBits_eq_ok, readBool_eq_ok, paletteFields, and_assoc,
      -Bool.exists_bool]
  · simp_all [paletteFields]

end

/-! ### The round trips -/

/-- Settles O1: the fields `encode` writes are, format by format, those the decoder answers the operation for. -/
theorem decodeOfEncodeIsIdentity : Obligations.DecodeOfEncodeIsIdentity := by
  intro i
  cases i <;> simp only [encode, decode]
  case palSetDmgBg v | palSetDmgObj0 v | palSetDmgObj1 v => exact decodeV8_eq_ok.mpr ⟨v, rfl, rfl⟩
  case palWriteCgbBg o v | palWriteCgbObj o v => exact decodeO6V8_eq_ok.mpr ⟨o, v, rfl, rfl⟩
  case palBg k | palObj k => exact decodeI3_eq_ok.mpr ⟨k, rfl, rfl⟩
  case tileFetchRow b t r fx fy => exact decodeFetch_eq_ok.mpr ⟨b, t, r, fx, fy, rfl, rfl⟩
  case fbPlot x y q c => exact decodePlot_eq_ok.mpr ⟨x, y, q, c, rfl, rfl⟩
  case fbClear | fbPresent | line | reset | palInit => exact decodeNone_eq_ok.mpr ⟨rfl, rfl⟩
  case draw ly | drawBg ly | drawObj ly | drawWin ly => exact decodeLY8_eq_ok.mpr ⟨ly, rfl, rfl⟩
  case drawTile p b t fx fy sx sy ly base sprite =>
    exact decodeTile_eq_ok.mpr ⟨p, b, t, fx, fy, sx, sy, ly, base, sprite, rfl, rfl⟩
  case tick n => exact decodeN_eq_ok.mpr ⟨n, rfl, rfl⟩

/-- A command from its selector's number and its fields. -/
theorem Command.mk_eq {c : Command} {n : Nat} {fs : List Int} (hop : c.op.toNat = n) (hfs : c.fields = fs) :
    ⟨BitVec.ofNat 5 n, fs⟩ = c := by
  subst hop hfs
  rw [BitVec.ofNat_toNat, BitVec.setWidth_eq]

/-- Settles O2: the selector and, by its format, the fields of the command are those `encode` writes. -/
theorem encodeOfDecodeIsIdentity : Obligations.EncodeOfDecodeIsIdentity := by
  intro c i h
  unfold decode at h
  split at h
  case h_1 hop | h_2 hop | h_3 hop =>
    obtain ⟨v, hf, rfl⟩ := decodeV8_eq_ok.mp h
    exact Command.mk_eq hop hf
  case h_4 hop | h_5 hop =>
    obtain ⟨o, v, hf, rfl⟩ := decodeO6V8_eq_ok.mp h
    exact Command.mk_eq hop hf
  case h_6 hop | h_7 hop =>
    obtain ⟨k, hf, rfl⟩ := decodeI3_eq_ok.mp h
    exact Command.mk_eq hop hf
  case h_8 hop =>
    obtain ⟨b, t, r, fx, fy, hf, rfl⟩ := decodeFetch_eq_ok.mp h
    exact Command.mk_eq hop hf
  case h_9 hop =>
    obtain ⟨x, y, q, c, hf, rfl⟩ := decodePlot_eq_ok.mp h
    exact Command.mk_eq hop hf
  case h_10 hop | h_11 hop | h_18 hop | h_19 hop | h_20 hop =>
    obtain ⟨hf, rfl⟩ := decodeNone_eq_ok.mp h
    exact Command.mk_eq hop hf
  case h_12 hop | h_14 hop | h_15 hop | h_16 hop =>
    obtain ⟨ly, hf, rfl⟩ := decodeLY8_eq_ok.mp h
    exact Command.mk_eq hop hf
  case h_13 hop =>
    obtain ⟨p, b, t, fx, fy, sx, sy, ly, base, sprite, hf, rfl⟩ := decodeTile_eq_ok.mp h
    exact Command.mk_eq hop hf
  case h_17 hop =>
    obtain ⟨n, hf, rfl⟩ := decodeN_eq_ok.mp h
    exact Command.mk_eq hop hf
  case h_21 => cases h

/-! ### Selectors and sample commands -/

/-- No selector above 19 is in the table of R108. -/
theorem decode_of_selector_above {c : Command} (h : 20 ≤ c.op.toNat) : decode c = .error (.unknownSelector c.op) := by
  unfold decode
  split
  case h_21 => rfl
  all_goals omega

/-- Settles O4: each pair is a closed command, so `decode` is evaluated on it. -/
theorem sampleCommandsDecode : Obligations.SampleCommandsDecode :=
  ⟨rfl, rfl, rfl, rfl, rfl, rfl, rfl, rfl, rfl, rfl⟩

end Sys2Proof
end

section
/-! PROOFS. One step (00_scope.md R10, R65): what it does for each form of the next entry of the host's list. -/

namespace Sys2Proof.Machine

section
variable {s : State} {rest : List Request}

theorem step_of_idle (hp : s.pending = []) : step s = .next s := by
  simp only [step, State.fetch, hp]

theorem step_of_host {h : HostStep} (hp : s.pending = .host h :: rest) :
    step s = { s with pending := rest }.hostStep h := by
  simp only [step, State.fetch, hp]

theorem step_of_decode_ok {c : Command} {i : Instr} (hp : s.pending = .command c :: rest) (hd : decode c = .ok i) :
    step s = exec i { s with pending := rest } := by
  simp only [step, State.fetch, hp, hd]

theorem step_of_decode_error {c : Command} {e : DecodeError} (hp : s.pending = .command c :: rest)
    (hd : decode c = .error e) : step s = .refused (.undecodable e) := by
  simp only [step, State.fetch, hp, hd]

end

/-- Settles O3: such a selector decodes to an error, which is what a step refuses. -/
theorem selectorsAbove19SelectNothing : Obligations.SelectorsAbove19SelectNothing := fun _ h =>
  ⟨decode_of_selector_above h, fun _ _ hp => step_of_decode_error hp (decode_of_selector_above h)⟩

/-- Settles O5. -/
theorem stepRunsDecodedCommand : Obligations.StepRunsDecodedCommand := fun _ _ _ _ => step_of_decode_ok

/-- Settles O6. -/
theorem stepPerformsHostSteps : Obligations.StepPerformsHostSteps :=
  ⟨fun _ _ _ => step_of_host, fun _ => step_of_idle⟩

/-! ### Host steps (R82) -/

/-- Settles O53: a written register is read back and every other is as before. -/
theorem hostAccessesRegisters : Obligations.HostAccessesRegisters := by
  intro s r v rest
  refine ⟨fun hp => ⟨{ s with pending := rest, regs := s.regs.set r v }, step_of_host hp, rfl, ?_, ?_⟩, step_of_host⟩
  · exact LcdRegs.get_set_same s.regs r v
  · exact fun q => LcdRegs.get_set_of_ne s.regs r q v

/-- Settles O54: a write keeps the canonical form's reading rule `Memory.read_write`, and each access is guarded by
the size of its memory. -/
theorem hostAccessesVramAndOam : Obligations.HostAccessesVramAndOam := by
  intro s a v rest ⟨hvram, hoam⟩
  refine ⟨fun hp => ⟨fun ha => ?_, fun ha => ?_⟩, fun hp => ⟨fun ha => ?_, fun ha => ?_⟩,
    fun hp => ⟨fun ha => ?_, fun ha => ?_⟩, fun hp => ⟨fun ha => ?_, fun ha => ?_⟩⟩
  all_goals rw [step_of_host hp]
  · exact ⟨_, if_pos ha, rfl, fun b => Memory.read_write hvram a b v⟩
  · exact if_neg ha.not_gt
  · exact ⟨_, if_pos ha, rfl, fun b => Memory.read_write hoam a b v⟩
  · exact if_neg ha.not_gt
  · exact if_pos ha
  · exact if_neg ha.not_gt
  · exact if_pos ha
  · exact if_neg ha.not_gt

/-- Settles O55: the host step of each form is a record update of one field. -/
theorem hostControlsInputsAndRequests : Obligations.HostControlsInputsAndRequests := fun _ _ _ =>
  ⟨step_of_host, step_of_host, step_of_host⟩

/-! ### Bus addresses and request bits -/

/-- Settles O57: the register is found at its address when no other shares it, and none is found elsewhere. -/
theorem registersAtTheirAddresses : Obligations.RegistersAtTheirAddresses := by
  intro s
  refine ⟨fun distinct r => ?_, fun a ha => ?_⟩
  · rw [State.readRegister, s.regAt_registerAddress r fun q => distinct q r]
  · rw [State.readRegister, s.regAt_of_ne a ha]

/-- Settles O58: by `State.testBit_requestBits` each bit is the request whose position it is. -/
theorem requestRegisterBits : Obligations.RequestRegisterBits := by
  intro s k
  refine ⟨fun n => ?raise, fun n hv hl => ?other, fun hne => ⟨?bit, _, rfl, fun n => ?clear⟩⟩
  all_goals simp only [State.testBit_requestBits]
  case other => simp [hv.symm, hl.symm]
  case raise => cases k <;> simp [Requests.set, irqPosition, eq_comm] <;> grind
  case bit => cases k <;> simp [Requests.get, irqPosition, hne, hne.symm]
  case clear => cases k <;> simp [Requests.clear, irqPosition] <;> grind

end Sys2Proof.Machine
end

section
/-! PROOFS. Domains and modes (30_encoding.md R110, 40_palette_store.md R120): which operands and which mode an
operation needs to complete. -/

namespace Sys2Proof.Machine

/-! ### Domains -/

theorem wellFormed_tileFetchRow {b : BitVec 1} {n : BitVec 9} {r : BitVec 3} {fx fy : Bool} :
    (Instr.tileFetchRow b n r fx fy).WellFormed ↔ n.toNat < 384 := by
  simp [Instr.WellFormed, Instr.domainError, tileIndexOk]

theorem wellFormed_fbPlot {x y : Byte} {q : Tag} {c : Color} :
    (Instr.fbPlot x y q c).WellFormed ↔ x.toNat < 160 ∧ y.toNat < 144 ∧ plotTagOk q = true := by
  simp only [Instr.WellFormed, Instr.domainError, columnOk, lineOk, decide_eq_true_eq]
  split_ifs <;> simp_all

theorem wellFormed_drawTile {p : Palette} {b : BitVec 1} {n : BitVec 9} {fx fy : Bool} {sx sy : Int} {ly : Byte}
    {base : Tag} {sprite : Bool} : (Instr.drawTile p b n fx fy sx sy ly base sprite).WellFormed ↔
      n.toNat < 384 ∧ ly.toNat < 144 ∧ baseTagOk base = true := by
  simp only [Instr.WellFormed, Instr.domainError, tileIndexOk, lineOk, decide_eq_true_eq]
  split_ifs <;> simp_all

theorem exec_fbPlot_next {x y : Byte} {q : Tag} (c : Color) (s : State) (hx : x.toNat < 160) (hy : y.toNat < 144)
    (hq : plotTagOk q = true) :
    exec (.fbPlot x y q c) s = .next { s with frame := s.frame.plot ⟨x.toNat, hx⟩ ⟨y.toNat, hy⟩ q c } := by
  simp only [exec, execFbPlot, hx, hy, hq, dite_true, if_true]

theorem exec_drawTile_next (p : Palette) (b : BitVec 1) {n : BitVec 9} (fx fy : Bool) (sx sy : Int) {ly : Byte}
    {base : Tag} (sprite : Bool) (s : State) (hn : n.toNat < 384) (hy : ly.toNat < 144)
    (hb : baseTagOk base = true) :
    exec (.drawTile p b n fx fy sx sy ly base sprite) s = .next { s with
      frame := s.frame.drawTile s.vram ⟨p, b, n, fx, fy, sx, sy, base, sprite⟩ ⟨ly.toNat, hy⟩ } := by
  simp only [exec, execDrawTile, tileIndexOk, hn, hy, hb, decide_true, dite_true, if_true]

/-- Settles O7: only three operations have operand domains and five a mode; the others complete whatever the state. -/
theorem inDomainOperationsComplete : Obligations.InDomainOperationsComplete := by
  intro i s hwf hmode
  cases i
  case palSetDmgBg | palSetDmgObj0 | palSetDmgObj1 | palWriteCgbBg | palWriteCgbObj =>
    exact ⟨_, State.inMode_next.mpr ⟨hmode _ rfl, rfl⟩⟩
  case tileFetchRow => exact ⟨_, exec_tileFetchRow_next _ _ _ _ _ s (wellFormed_tileFetchRow.mp hwf)⟩
  case fbPlot =>
    obtain ⟨hx, hy, hq⟩ := wellFormed_fbPlot.mp hwf
    exact ⟨_, exec_fbPlot_next _ s hx hy hq⟩
  case drawTile =>
    obtain ⟨hn, hy, hb⟩ := wellFormed_drawTile.mp hwf
    exact ⟨_, exec_drawTile_next _ _ _ _ _ _ _ s hn hy hb⟩
  all_goals exact ⟨_, rfl⟩

/-- Settles O8: the three operations with operand domains test them in the order of `Instr.domainError`. -/
theorem outOfDomainOperandsRefused : Obligations.OutOfDomainOperandsRefused := by
  intro i s f h
  cases i
  case tileFetchRow | fbPlot | drawTile =>
    simp only [Instr.domainError, columnOk, lineOk, decide_eq_true_eq] at h
    simp only [exec, execTileFetchRow, execFbPlot, execDrawTile]
    split_ifs at h ⊢ <;> cases h <;> rfl
  all_goals cases h

/-! ### Modes -/

theorem State.inMode_refused {s : State} {m : Mode} (n : State) (h : s.config.mode ≠ m) :
    s.inMode m n = .refused (.wrongMode m) := if_neg h

/-- Settles O9: every operation of a palette path is an `inMode` of the mode it needs. -/
theorem palettePathsFollowMode : Obligations.PalettePathsFollowMode := by
  intro s v o k
  refine ⟨fun hcgb => ?_, fun hdmg => ?_, ⟨_, exec_palBg k s⟩, ⟨_, exec_palObj k s⟩⟩
  · have hne : s.config.mode ≠ .dmg := by simp [hcgb]
    have complete (n : State) : ∃ t, s.inMode .cgb n = .next t := ⟨n, State.inMode_next.mpr ⟨hcgb, rfl⟩⟩
    exact ⟨State.inMode_refused _ hne, State.inMode_refused _ hne, State.inMode_refused _ hne,
      complete _, complete _⟩
  · have hne : s.config.mode ≠ .cgb := by simp [hdmg]
    have complete (n : State) : ∃ t, s.inMode .dmg n = .next t := ⟨n, State.inMode_next.mpr ⟨hdmg, rfl⟩⟩
    exact ⟨State.inMode_refused _ hne, State.inMode_refused _ hne, complete _, complete _, complete _⟩

end Sys2Proof.Machine
end

section
/-! PROOFS. The palette store (40_palette_store.md): the DMG palettes, the initialisation, and the round trip of the
CGB palette RAMs. -/

namespace Sys2Proof.Machine

/-! ### DMG palettes (R122 to R124) -/

/-- Every colour of the palettes in which palette `k` was replaced by a DMG palette. -/
theorem set_dmgPalette_get (pals : Vector Palette 8) (k : Fin 8) (shades : Palette) (v : Byte) :
    (∀ i : Fin 4, (pals.set k (dmgPalette shades v))[k][i] =
      shades[v.toNat / 4 ^ i.val % 4]'(Nat.mod_lt _ (by decide))) ∧
    ∀ j : Fin 8, j ≠ k → (pals.set k (dmgPalette shades v))[j] = pals[j] := by
  refine ⟨fun i => ?_, fun j hj => ?_⟩
  · have hk : (pals.set k (dmgPalette shades v))[k] = dmgPalette shades v := Vector.getElem_set_self _
    rw [hk, dmgPalette_get]
  · exact Vector.getElem_set_ne _ _ fun hc => hj (Fin.ext hc.symm)

/-- Settles O10. -/
theorem setDmgBgMapsShades : Obligations.SetDmgBgMapsShades := fun s v hdmg =>
  ⟨_, State.inMode_next.mpr ⟨hdmg, rfl⟩, rfl, set_dmgPalette_get s.pal.bg 0 s.config.dmgEntry.bg v⟩

/-- Settles O11. -/
theorem setDmgObjMapsShades : Obligations.SetDmgObjMapsShades := fun s v hdmg =>
  ⟨⟨_, State.inMode_next.mpr ⟨hdmg, rfl⟩, rfl, set_dmgPalette_get s.pal.obj 0 s.config.dmgEntry.obj0 v⟩,
    _, State.inMode_next.mpr ⟨hdmg, rfl⟩, rfl, set_dmgPalette_get s.pal.obj 1 s.config.dmgEntry.obj1 v⟩

/-! ### Colour expansion -/

/-- Settles O15: no bit of the quotient is lost, since `c` is at most 31. -/
theorem expandIsNearestInteger : Obligations.ExpandIsNearestInteger := by
  intro c
  have hc := c.isLt
  have hexp : (expand5 c).toNat = (c.toNat * 255 + 15) / 31 := by
    rw [expand5, BitVec.toNat_ofNat]
    omega
  omega

/-! ### The round trip (R131) -/

/-- One side of the palette store after the offsets `done` were written, byte `B o` at offset `o`: those bytes are
stored, and every colour one of whose bytes was written is the expansion of its word. -/
structure SideWritten (B : BitVec 6 → Byte) (done : List (BitVec 6)) (pals : Vector Palette 8)
    (ram : Vector Byte 64) : Prop where
  bytes : ∀ o ∈ done, ram[o.toNat] = B o
  colours : ∀ (i : Fin 8) (j : Fin 4), (∃ o ∈ done, 4 * i.val + j.val = o.toNat / 2) →
    pals[i][j] = resolve555 (ram[8 * i.val + 2 * j.val + 1] ++ ram[8 * i.val + 2 * j.val])

theorem sideWritten_nil (B : BitVec 6 → Byte) (pals : Vector Palette 8) (ram : Vector Byte 64) :
    SideWritten B [] pals ram := ⟨by simp, by simp⟩

/-- A further write: the colour of its slot is recomputed, and no other colour's word changes. -/
theorem SideWritten.cons {B : BitVec 6 → Byte} {done : List (BitVec 6)} {pals : Vector Palette 8}
    {ram : Vector Byte 64} (h : SideWritten B done pals ram) (o : BitVec 6) :
    SideWritten B (o :: done)
      (setSlot pals (slotOf o) (resolve555 (ramWord (ram.set o.toNat (B o) o.isLt) (slotOf o))))
      (ram.set o.toNat (B o) o.isLt) := by
  refine ⟨fun o' ho' => ?bytes, fun i j hij => ?colours⟩
  case bytes =>
    rw [Vector.getElem_set]
    split_ifs with heq
    · rw [BitVec.eq_of_toNat_eq heq]
    · refine h.bytes o' ((List.mem_cons.mp ho').resolve_left fun hc => heq (by rw [hc]))
  case colours =>
    rw [writeSlot_get]
    split_ifs with hslot
    · rfl
    · rw [Vector.getElem_set_ne _ _ (by omega), Vector.getElem_set_ne _ _ (by omega)]
      obtain ⟨o', ho', hk⟩ := hij
      refine h.colours i j ⟨o', (List.mem_cons.mp ho').resolve_left fun hc => hslot (by rw [hk, hc]), hk⟩

/-- With every offset written every colour is the expansion of its two bytes. -/
theorem SideWritten.colour {B : BitVec 6 → Byte} {done : List (BitVec 6)} {pals : Vector Palette 8}
    {ram : Vector Byte 64} (h : SideWritten B done pals ram) (hall : ∀ o, o ∈ done) (i : Fin 8) (j : Fin 4) :
    pals[i][j] = resolve555 (B (BitVec.ofNat 6 (8 * i + 2 * j + 1)) ++ B (BitVec.ofNat 6 (8 * i + 2 * j))) := by
  have hbyte (n : Nat) (hn : n < 64) : ram[n] = B (BitVec.ofNat 6 n) := by
    rw [← h.bytes _ (hall (BitVec.ofNat 6 n))]
    simp [Nat.mod_eq_of_lt hn]
  rw [h.colours i j ⟨BitVec.ofNat 6 (8 * i + 2 * j), hall _, by simp; omega⟩, hbyte _ (by omega), hbyte _ (by omega)]

/-- What every operation of a family extends from the offsets done to one more, running the family over a list
extends to all of it. -/
theorem execAll_map_induct {f : BitVec 6 → Instr} {P : List (BitVec 6) → State → Prop}
    (hstep : ∀ done o s, P done s → ∃ t, exec (f o) s = .next t ∧ P (o :: done) t) (order : List (BitVec 6))
    {done : List (BitVec 6)} {s : State} (h : P done s) :
    ∃ t, execAll (order.map f) s = .next t ∧ P (order.reverse ++ done) t := by
  induction order generalizing done s with
  | nil => exact ⟨s, rfl, h⟩
  | cons o order ih =>
    obtain ⟨u, hu, hPu⟩ := hstep done o s h
    obtain ⟨t, ht, hPt⟩ := ih hPu
    refine ⟨t, ?_, ?_⟩
    · rw [List.map_cons, execAll, hu]
      exact ht
    · simpa using hPt

/-- Settles O14: the writes keep `SideWritten`, which at the end speaks of every offset. -/
theorem cgbPaletteRoundTrip : Obligations.CgbPaletteRoundTrip := by
  intro s order B hcgb hall
  have hdone : ∀ o, o ∈ order.reverse ++ [] := by simpa using hall
  constructor
  · obtain ⟨t, ht, -, hside⟩ := execAll_map_induct (f := fun o => .palWriteCgbBg o (B o))
      (P := fun done u => u.config.mode = .cgb ∧ SideWritten B done u.pal.bg u.pal.bgRam)
      (fun done o u hu => ⟨_, State.inMode_next.mpr ⟨hu.1, rfl⟩, hu.1, hu.2.cons o⟩) order
      ⟨hcgb, sideWritten_nil B _ _⟩
    exact ⟨t, ht, hside.colour hdone⟩
  · obtain ⟨t, ht, -, hside⟩ := execAll_map_induct (f := fun o => .palWriteCgbObj o (B o))
      (P := fun done u => u.config.mode = .cgb ∧ SideWritten B done u.pal.obj u.pal.objRam)
      (fun done o u hu => ⟨_, State.inMode_next.mpr ⟨hu.1, rfl⟩, hu.1, hu.2.cons o⟩) order
      ⟨hcgb, sideWritten_nil B _ _⟩
    exact ⟨t, ht, hside.colour hdone⟩

/-! ### `PAL.INIT` (R121) -/

theorem PaletteStore.init_cgb {c : Config} (h : c.mode = .cgb) (p : PaletteStore) :
    PaletteStore.init c p =
      { bgRam := Vector.replicate 64 c.cgbBgRamFill
        objRam := c.objRamReset
        bg := resolveRam (Vector.replicate 64 c.cgbBgRamFill)
        obj := resolveRam c.objRamReset } := by
  simp only [PaletteStore.init, h]

theorem PaletteStore.init_dmg {c : Config} (h : c.mode = .dmg) (p : PaletteStore) :
    PaletteStore.init c p =
      { p with
        bg := p.bg.set 0 c.dmgEntry.bg
        obj := (p.obj.set 0 c.dmgEntry.obj0).set 1 c.dmgEntry.obj1 } := by
  simp only [PaletteStore.init, h]

section
variable {c : Config} (p : PaletteStore)

/-- The bytes and colours the CGB initialisation leaves. -/
theorem PaletteStore.init_cgb_get (h : c.mode = .cgb) :
    (∀ a : Fin 64, (init c p).bgRam[a] = c.cgbBgRamFill ∧ (init c p).objRam[a] = c.objRamReset[a]) ∧
    ∀ (i : Fin 8) (j : Fin 4),
      (init c p).bg[i][j] = resolve555 (c.cgbBgRamFill ++ c.cgbBgRamFill) ∧
      (init c p).obj[i][j] =
        resolve555 (c.objRamReset[8 * i.val + 2 * j.val + 1] ++ c.objRamReset[8 * i.val + 2 * j.val]) := by
  rw [PaletteStore.init_cgb h]
  refine ⟨fun a => ⟨by simp, rfl⟩, fun i j => ⟨?_, resolveRam_get _ i j⟩⟩
  rw [resolveRam_get, Vector.getElem_replicate, Vector.getElem_replicate]

/-- The three palettes the DMG initialisation writes. -/
theorem PaletteStore.init_dmg_get (h : c.mode = .dmg) :
    (init c p).bg[0] = c.dmgEntry.bg ∧ (init c p).obj[0] = c.dmgEntry.obj0 ∧
      (init c p).obj[1] = c.dmgEntry.obj1 := by
  rw [PaletteStore.init_dmg h]
  exact ⟨by simp, by simp, by simp⟩

end

theorem exec_palInit (s : State) :
    exec .palInit s = .next { s with pal := PaletteStore.init s.config s.pal } := rfl

/-- The fill 0x1F gives the colour 0xFFC53A. -/
theorem resolve555_1F1F : resolve555 (0x1F#8 ++ 0x1F#8) = 0xFFC53A := by decide

/-- Settles O18. -/
theorem paletteInitSeedsStore : Obligations.PaletteInitSeedsStore :=
  ⟨fun s hcgb => ⟨_, exec_palInit s, rfl, PaletteStore.init_cgb_get s.pal hcgb⟩, resolve555_1F1F,
    fun s hdmg => ⟨_, exec_palInit s, rfl, PaletteStore.init_dmg_get s.pal hdmg⟩⟩

end Sys2Proof.Machine
end

section
/-! PROOFS. The tile fetcher (41_tile_fetcher.md R142, 30_encoding.md R104): its flip laws, its uniform rows, and the
tile index of a byte. -/

namespace Sys2Proof.Machine

/-! ### The laws of R142 -/

/-- The eight results with `flip_x` are the others reversed. -/
theorem planarPixel_flipX (lo hi : Byte) (px : Fin 8) :
    planarPixel lo hi true px = planarPixel lo hi false ⟨7 - px.val, by omega⟩ := by
  apply BitVec.eq_of_toNat_eq
  simp only [planarPixel_toNat, if_true, Bool.false_eq_true, if_false, show 7 - (7 - px.val) = px.val by omega]

/-- The pixels of a row whose planes are uniform. -/
theorem planarPixel_uniform (flipX : Bool) (px : Fin 8) :
    planarPixel 0 0 flipX px = 0 ∧ planarPixel 0xFF 0xFF flipX px = 3 ∧
    planarPixel 0xFF 0 flipX px = 1 ∧ planarPixel 0 0xFF flipX px = 2 := by
  revert flipX px
  decide

/-- Settles O20: both flips only choose what is read, and a tile with uniform planes has the same two bytes in every
row. -/
theorem fetchRowFlipAndUniformLaws : Obligations.FetchRowFlipAndUniformLaws := by
  intro vram b n r fx fy
  refine ⟨rfl, fun px => ?flipX, fun lo hi htile px => ?uniform⟩
  case flipX =>
    have hrev := fetchRow_get vram b n r false fy ⟨7 - px.val, by omega⟩
    rw [fetchRow_get, planarPixel_flipX]
    exact hrev.symm
  case uniform =>
    generalize hrow : (if fy then 7 - r else r) = row
    have hlo : vram.read (tileRowAddr b n row) = lo := by
      rw [tileRowAddr, htile _ (by omega), if_pos (by omega)]
    have hhi : vram.read (tileRowAddr b n row + 1) = hi := by
      rw [tileRowAddr, Nat.add_assoc, htile _ (by omega), if_neg (by omega)]
    obtain ⟨h0, h3, h1, h2⟩ := planarPixel_uniform fx px
    rw [fetchRow_get, hrow, hlo, hhi]
    refine ⟨?_, ?_, ?_, ?_⟩ <;> rintro rfl rfl <;> assumption

/-! ### Tile indices (R104) -/

/-- Settles O21. -/
theorem tileIndexFromMapByte : Obligations.TileIndexFromMapByte := by
  refine ⟨fun n => ?map, fun m obj o ly => ?sprite⟩
  case map =>
    have hn := n.isLt
    simp only [tileIndexOf_toNat, true_or, if_true, Bool.false_eq_true, false_or, true_and]
    refine ⟨?_, by omega, ?_⟩ <;> split_ifs <;> omega
  case sprite =>
    have ht := o.tile.isLt
    simp only [spriteTile, Bool.false_eq_true, if_false, BitVec.toNat_ofNat]
    omega

end Sys2Proof.Machine
end

section
/-! PROOFS. The framebuffer (42_framebuffer.md): a cell as a number, the arbitration of a plot, and the payload. -/

namespace Sys2Proof.Machine

/-! ### Plots (R150, R155) -/

theorem cellTag_toNat (c : Cell) : (cellTag c).toNat = c.toNat / 2 ^ 24 := by
  have hc := c.isLt
  rw [cellTag, BitVec.extractLsb'_toNat, Nat.shiftRight_eq_div_pow]
  omega

theorem mkCell_toNat (q : Tag) (c : Color) : (mkCell q c).toNat = q.toNat * 2 ^ 24 + c.toNat := by
  have hq := q.isLt
  have hc := c.isLt
  have hshift : (q.setWidth 32 <<< 24).toNat = q.toNat <<< 24 := by
    rw [BitVec.toNat_shiftLeft, BitVec.toNat_setWidth, Nat.shiftLeft_eq, Nat.shiftLeft_eq]
    omega
  have hcolour : (c.setWidth 32).toNat = c.toNat := by
    rw [BitVec.toNat_setWidth]
    omega
  rw [mkCell, BitVec.toNat_or, hshift, hcolour, ← Nat.shiftLeft_add_eq_or_of_lt hc, Nat.shiftLeft_eq]

theorem plotCell_toNat (old : Cell) (q : Tag) (c : Color) : (plotCell old q c).toNat =
    if old.toNat / 2 ^ 24 ≤ q.toNat then q.toNat * 2 ^ 24 + c.toNat else old.toNat := by
  rw [plotCell, cellTag_toNat]
  split_ifs
  · exact mkCell_toNat q c
  · rfl

theorem plotTagOk_iff (q : Tag) : plotTagOk q = true ↔ q = 1 ∨ q = 2 ∨ q = 3 ∨ q = 5 ∨ q = 6 := by
  revert q
  decide

theorem baseTagOk_iff (q : Tag) : baseTagOk q = true ↔ q = 0 ∨ q = 2 ∨ q = 5 ∨ q = 6 := by
  revert q
  decide

/-- Settles O23: the completed plot is `Frame.plot`, which is `plotCell` in its cell and nothing elsewhere. -/
theorem plotArbitratesByTag : Obligations.PlotArbitratesByTag := by
  intro s x y q c hx hy hq
  refine ⟨_, exec_fbPlot_next c s hx hy ((plotTagOk_iff q).mpr hq), rfl, fun x' y' => ?_⟩
  dsimp only
  rw [Frame.get_plot]
  by_cases hcell : x' = ⟨x.toNat, hx⟩ ∧ y' = ⟨y.toNat, hy⟩
  · obtain ⟨rfl, rfl⟩ := hcell
    simp only [true_and, and_true, if_true, plotCell_toNat]
  · rw [if_neg hcell, if_neg fun h => hcell ⟨Fin.ext h.1, Fin.ext h.2.1⟩]

/-- The outcomes of the comparison of R150 for the legal tags and the priorities of a plot. -/
theorem tag_le_iff {t : Byte} {q : Tag} (ht : legalTag t) (hq : q = 1 ∨ q = 3 ∨ q = 2 ∨ q = 5 ∨ q = 6) :
    t.toNat ≤ q.toNat ↔
      t = 0 ∨ t = 1 ∨ (t = 2 ∧ q ≠ 1) ∨ (t = 3 ∧ (q = 3 ∨ q = 5 ∨ q = 6)) ∨ (t = 5 ∧ (q = 5 ∨ q = 6)) ∨
        (t = 6 ∧ q = 6) := by
  rcases ht with rfl | rfl | rfl | rfl | rfl | rfl <;> revert q <;> decide

/-- Settles O24. -/
theorem arbitrationTable : Obligations.ArbitrationTable := by
  intro old q c hold hq
  simp only [plotCell, tag_le_iff hold hq]

/-! ### The payload (R62, R71, R153) -/

theorem exec_fbPresent (s : State) : exec .fbPresent s = .next s.present := rfl

/-- Settles O26: the cells are the payload of the frame as it is. -/
theorem presentDeliversRowMajor : Obligations.PresentDeliversRowMajor := fun s =>
  ⟨s.frame.cells, exec_fbPresent s, s.frame.cells_length, s.frame.cells_getElem?⟩

/-- The bytes of a cell as numbers: byte `k` is the digit of `256 ^ k`. -/
theorem cellBytes_eq (c : Cell) :
    cellBytes c = [BitVec.ofNat 8 c.toNat, BitVec.ofNat 8 (c.toNat / 256), BitVec.ofNat 8 (c.toNat / 65536),
      BitVec.ofNat 8 (c.toNat / 16777216)] := by
  simp [cellBytes, BitVec.extractLsb', Nat.shiftRight_eq_div_pow]

/-- Settles O56: byte `k` of the payload's cell `i` stands at `4 * i + k`. -/
theorem framebufferByteForm : Obligations.FramebufferByteForm := by
  refine ⟨fun f => ⟨by simp, fun x y => ?_⟩, cellBytes_mkCell⟩
  have hbyte (k : Nat) (hk : k < 4) :
      (payloadBytes f.cells)[4 * (y.val * 160 + x.val) + k]? = (cellBytes (f.get x y))[k]? := by
    rw [payloadBytes_getElem? _ _ _ hk, f.cells_getElem?]
    rfl
  rw [cellBytes_eq] at hbyte
  exact ⟨hbyte 0 (by decide), hbyte 1 (by decide), hbyte 2 (by decide), hbyte 3 (by decide)⟩

end Sys2Proof.Machine
end

section
/-! PROOFS. Reset (70_reset_and_hazards.md): what the operation writes, the values of the state after reset, and that
this state meets the invariant. -/

namespace Sys2Proof.Machine

/-- `STAT & 0xFC` keeps bits 7..2 and clears the mode (R251). -/
theorem and_FC_toNat (v : Byte) : (v &&& 0xFC).toNat = v.toNat / 4 * 4 := by
  revert v
  decide

/-- The registers but `LY` and `STAT` in a record that writes those two. -/
theorem LcdRegs.get_ly_stat (g : LcdRegs) (v w : Byte) {r : LcdReg} (hly : r ≠ .ly) (hstat : r ≠ .stat) :
    ({ g with ly := v, stat := w } : LcdRegs).get r = g.get r := by
  cases r
  case ly => exact absurd rfl hly
  case stat => exact absurd rfl hstat
  all_goals rfl

theorem exec_reset (s : State) : exec .reset s = .next s.restart := rfl

theorem spritesDrawn_zero (l : Fin 144) : (Vector.replicate 144 0)[l] = 0 := by simp

/-- Settles O49: `State.restart` is the record update the statement asks for. -/
theorem resetOperationStartsBlock : Obligations.ResetOperationStartsBlock := fun s =>
  ⟨_, _, exec_reset s, exec_palInit s, rfl, and_FC_toNat s.regs.stat, Frame.get_cleared, spritesDrawn_zero⟩

/-- Settles O50: the palettes are those of `PAL.INIT`, the rest is as `State.resetWith` writes it. -/
theorem resetStateValues : Obligations.ResetStateValues := by
  intro c regs vram oam s
  have hstat : s.regs.stat.toNat = regs.stat.toNat / 4 * 4 := and_FC_toNat regs.stat
  refine ⟨rfl, by omega, rfl, rfl, rfl, Frame.get_cleared, spritesDrawn_zero,
    fun _ => LcdRegs.get_ly_stat regs _ _, by omega, rfl, rfl, rfl, fun hcgb => ?cgb, PaletteStore.init_dmg_get PaletteStore.blank⟩
  case cgb =>
    obtain ⟨hram, hcolour⟩ := PaletteStore.init_cgb_get PaletteStore.blank hcgb
    refine ⟨hram, fun i j => ⟨(hcolour i j).1, fun hfill => (hcolour i j).1.trans ?_, (hcolour i j).2⟩⟩
    rw [hfill]
    exact resolve555_1F1F

/-- The initialisation leaves the CGB colours coherent with their RAM (R34). -/
theorem State.paletteCoherent_of_init {s : State} {p : PaletteStore} (h : s.pal = PaletteStore.init s.config p) :
    s.PaletteCoherent := fun hcgb => by
  rw [h, PaletteStore.init_cgb hcgb]
  exact ⟨rfl, rfl⟩

theorem State.resetWith_inv (c : Config) (regs : LcdRegs) {vram oam : Memory} (hv : Memory.wf vramSize vram)
    (ho : Memory.wf oamSize oam) : (State.resetWith c regs vram oam).Inv where
  tags := Frame.tagsLegal_cleared
  counters l := (spritesDrawn_zero l).trans_le (Nat.zero_le 10)
  cycles := show 0 < 456 by decide
  memory := ⟨hv, ho⟩
  palettes := State.paletteCoherent_of_init (p := PaletteStore.blank) rfl

/-- Settles O48. -/
theorem resetMeetsInvariant : Obligations.ResetMeetsInvariant :=
  ⟨fun c regs _ _ => State.resetWith_inv c regs, State.resetWith_inv _ _ (Memory.wf_nil _) (Memory.wf_nil _)⟩

end Sys2Proof.Machine
end

section
/-! PROOFS. The scanline compositor (43_compositor.md): one tile row on the screen, the scrolled background, the
sprites of a line, the window, and what `DRAW` leaves alone. -/

namespace Sys2Proof.Machine

/-! ### One tile row (R162) -/

/-- Settles O27: the completed operation is `Frame.drawTile`, whose cells `Frame.get_drawTile` and
`Frame.get_drawTile_at` give. -/
theorem drawTilePlotsOneRow : Obligations.DrawTilePlotsOneRow := by
  intro s pal b n fx fy sx sy ly base sprite hn hly hbase
  refine ⟨_, exec_drawTile_next pal b fx fy sx sy sprite s hn hly ((baseTagOk_iff base).mpr hbase), rfl,
    fun x y => ⟨fun hout => ?outside, fun px row hy hx hrow => ?inside⟩⟩
  case outside =>
    dsimp only
    rw [Frame.get_drawTile, dif_neg]
    rintro ⟨⟨rfl, hx, hx'⟩, hr, hr'⟩
    dsimp only at hx hx' hr hr'
    exact hout ⟨rfl, by omega⟩
  case inside =>
    obtain rfl : y = ⟨ly.toNat, hly⟩ := Fin.ext hy
    exact Frame.get_drawTile_at s.vram ⟨pal, b, n, fx, fy, sx, sy, base, sprite⟩ ⟨ly.toNat, hly⟩ s.frame x px row
      hx hrow

/-! ### The background (R164) -/

/-- The cell under column `px` and row `row` of a map tile that is placed on the screen (R162, R163). -/
theorem Frame.get_drawTile_place (vram : Memory) (m : MapTile) (sx sy : Int) (base : Tag) (ly : Fin 144) (f : Frame)
    (x : Fin 160) (px row : Fin 8) (hx : (x.val : Int) = sx + px.val) (hy : (ly.val : Int) = sy + row.val) :
    (f.drawTile vram (m.place sx sy base) ly).get x ly =
      let idx := (fetchRow vram m.bank m.tileIndex (BitVec.ofNat 3 row.val) m.flipX m.flipY)[px]
      plotCell (f.get x ly) (plotPriority base idx) (paletteColor m.pal idx) := by
  rw [Frame.get_drawTile_at vram (m.place sx sy base) ly f x px row hx hy, if_neg fun h => by cases h.1]
  rfl

theorem State.bgTile_covers (s : State) (ly : Fin 144) (i : Nat) (x : Fin 160) :
    (s.bgTile ly i).Covers x ↔ i = (x.val + s.regs.scx.toNat % 8) / 8 := by
  show 0 ≤ (x.val : Int) - ((i : Int) * 8 - (s.regs.scx.toNat % 8 : Nat)) ∧
    (x.val : Int) - ((i : Int) * 8 - (s.regs.scx.toNat % 8 : Nat)) < 8 ↔ _
  omega

/-- The tile of the background pass over column `x`: map column `(x + SCX) / 8 mod 32`, placed so that the column is
its pixel `(x + SCX) mod 8` (R165). -/
theorem State.bgTile_eq (s : State) (ly : Fin 144) (x : Fin 160) :
    s.bgTile ly ((x.val + s.regs.scx.toNat % 8) / 8) =
      (s.mapTile (mapOffset (bgMapBit s.regs.lcdc)) ((ly.val + s.regs.scy.toNat) / 8 % 32)
        ((x.val + s.regs.scx.toNat) / 8 % 32)).place
        ((x.val : Int) - ((x.val + s.regs.scx.toNat) % 8 : Nat))
        ((ly.val : Int) - ((ly.val + s.regs.scy.toNat) % 8 : Nat)) 0 := by
  have hcol : ((x.val + s.regs.scx.toNat % 8) / 8 + s.regs.scx.toNat / 8) % 32 =
      (x.val + s.regs.scx.toNat) / 8 % 32 := by omega
  have hsx : (((x.val + s.regs.scx.toNat % 8) / 8 : Nat) : Int) * 8 - (s.regs.scx.toNat % 8 : Nat) =
      (x.val : Int) - ((x.val + s.regs.scx.toNat) % 8 : Nat) := by omega
  simp only [State.bgTile, hcol, hsx]

/-- Every cell of the line after the background pass: exactly one of the 21 tiles covers it. -/
theorem State.drawBgLine_get (s : State) (ly : Fin 144) (x : Fin 160) :
    (s.drawBgLine ly).frame.get x ly =
      let vy := ly.val + s.regs.scy.toNat
      let vx := x.val + s.regs.scx.toNat
      let m := s.mapTile (mapOffset (bgMapBit s.regs.lcdc)) (vy / 8 % 32) (vx / 8 % 32)
      let idx := (fetchRow s.vram m.bank m.tileIndex (BitVec.ofNat 3 (vy % 8)) m.flipX m.flipY)[vx % 8]
      plotCell (s.frame.get x ly) (plotPriority 0 idx) (paletteColor m.pal idx) := by
  refine (Frame.get_foldl_drawTile_hit s.vram (s.bgTile ly) ly (List.range 21) List.nodup_range s.frame x
    ((x.val + s.regs.scx.toNat % 8) / 8) (List.mem_range.mpr (by omega))
    fun i _ hi => (s.bgTile_covers ly i x).mp hi).trans ?_
  rw [State.bgTile_eq]
  exact Frame.get_drawTile_place s.vram _ _ _ 0 ly s.frame x ⟨(x.val + s.regs.scx.toNat) % 8, by omega⟩
    ⟨(ly.val + s.regs.scy.toNat) % 8, by omega⟩ (by simp only; omega) (by simp only; omega)

/-- An operation on a line above 143 changes nothing. -/
theorem State.next_onLine_above (s : State) {ly : Byte} (p : State → Fin 144 → State) (h : 144 ≤ ly.toNat) :
    (.next (s.onLine ly p) : Answer) = .next s := congrArg _ (s.onLine_above p h)

/-- Settles O28. -/
theorem backgroundIsScrolledPlane : Obligations.BackgroundIsScrolledPlane := by
  intro s ly
  refine ⟨s.next_onLine_above _, fun hly =>
    ⟨s.drawBgLine ⟨ly.toNat, hly⟩, exec_drawBg_visible s rfl, rfl, fun x y => ?_⟩⟩
  intro off vy vx e idx
  by_cases hy : y.val = ly.toNat
  · obtain rfl : y = ⟨ly.toNat, hly⟩ := Fin.ext hy
    rw [if_pos hy]
    exact s.drawBgLine_get ⟨ly.toNat, hly⟩ x
  · rw [if_neg hy]
    exact s.drawBgLine_other _ x y fun hc => hy (congrArg Fin.val hc)

/-! ### The sprites of a line (R166 to R175) -/

/-- The entries of the sprite pass, with the position test written out. -/
theorem State.onLineSprites_eq (s : State) (ly : Fin 144) (es : List Nat) :
    s.onLineSprites ly es = es.filter fun e =>
      ((s.oam.read (4 * e)).toNat : Int) - 16 ≤ ly.val ∧
      (ly.val : Int) < ((s.oam.read (4 * e)).toNat : Int) - 16 + if s.regs.lcdc.getLsbD 2 then 16 else 8 :=
  List.filter_congr fun e _ => by
    rw [Bool.eq_iff_iff, spriteVisible_iff, decide_eq_true_iff]
    rfl

/-- Settles O29: the pass is the loop of `State.drawObjLine_eq` over the entries that cover the line. -/
theorem spritePassDrawsFirstTen : Obligations.SpritePassDrawsFirstTen := by
  intro s ly
  refine ⟨s.next_onLine_above _, fun l hl hn => ⟨s.drawObjLine l, exec_drawObj_visible s hl, rfl, ?_⟩⟩
  intro h onLine drawn
  have hdrawn : s.drawnSprites l (List.range 40) s.spritesDrawn[l] = drawn := by
    rw [State.drawnSprites, State.onLineSprites_eq]
  refine ⟨?frame, s.drawObjLine_other l, fun k => ?counter⟩
  case frame =>
    rw [s.drawObjLine_eq l hn, hdrawn]
    rfl
  case counter => rw [State.drawObjLine_spritesDrawn, State.drawSprites_eq _ _ _ _ _ hn, hdrawn]

/-! ### What a sprite draws (R169 to R174) -/

theorem or_one_toNat (v : Byte) : (v ||| 0x01).toNat = v.toNat / 2 * 2 + 1 := by
  revert v
  decide

theorem and_FE_toNat (v : Byte) : (v &&& 0xFE).toNat = v.toNat / 2 * 2 := by
  revert v
  decide

section
variable (m : Mode) (obj : Vector Palette 8) (tall : Bool) (o : OamEntry) (ly : Fin 144)

theorem spriteTile_base : (spriteTile m obj tall o ly).base = if o.attr.toNat / 128 = 1 then 2 else 5 := by
  have ha := o.attr.isLt
  have hbit : o.attr.getLsbD 7 = true ↔ o.attr.toNat / 128 = 1 := by
    rw [getLsbD_eq_true_iff]
    omega
  simp only [spriteTile, spriteBase, hbit]

theorem spriteTile_bank :
    (spriteTile m obj tall o ly).bank.toNat = if m = .cgb then o.attr.toNat / 8 % 2 else 0 := by
  cases m with
  | cgb => exact extractLsb'_bit_toNat o.attr 3
  | dmg => rfl

theorem spriteTile_pal : (spriteTile m obj tall o ly).pal =
    if m = .cgb then obj[o.attr.toNat % 8]'(Nat.mod_lt _ (by decide))
    else obj[o.attr.toNat / 16 % 2]'(Nat.lt_of_lt_of_le (Nat.mod_lt _ (by decide)) (by decide)) := by
  cases m with
  | cgb => simp only [spriteTile, spritePalette, if_true, extractLsb'_low3_toNat]
  | dmg =>
    have hbit : o.attr.toNat / 16 % 2 = (o.attr.getLsbD 4).toNat := (getLsbD_toNat o.attr 4).symm
    have hselect (b : Bool) : (if b then obj[1] else obj[0]) = obj[b.toNat]'(b.toNat_lt.trans (by decide)) := by
      cases b <;> rfl
    simp only [spriteTile, spritePalette, reduceCtorEq, if_false, hbit]
    exact hselect _

/-- A sprite tile byte loses no bit as a tile index (R104). -/
theorem spriteTile_tileIndex : (spriteTile m obj tall o ly).tileIndex.toNat =
    if tall = true then
      o.tile.toNat / 2 * 2 +
        if (decide ((ly.val : Int) < (o.y.toNat : Int) - 8) == o.attr.getLsbD 6) = true then 1 else 0
    else o.tile.toNat := by
  have ht := o.tile.isLt
  simp only [spriteTile, BitVec.toNat_ofNat]
  cases tall with
  | false =>
    simp only [Bool.false_eq_true, if_false]
    omega
  | true =>
    simp only [if_true, tallTile]
    split_ifs
    · rw [or_one_toNat]
      omega
    · rw [and_FE_toNat]
      omega

theorem spriteTile_sy : (spriteTile m obj tall o ly).sy =
    if tall = true ∧ (o.y.toNat : Int) - 8 ≤ ly.val then (o.y.toNat : Int) - 8 else (o.y.toNat : Int) - 16 := by
  simp only [spriteTile, Bool.and_eq_true, Bool.not_eq_true', decide_eq_false_iff_not, not_lt]

end

/-- Settles O30: field by field, the tile of a tall sprite by the half that holds the line. -/
theorem spriteTileSelection : Obligations.SpriteTileSelection := by
  intro m obj tall o ly
  refine ⟨spriteVisible_iff tall o ly, fun hvis => ?_⟩
  obtain ⟨htop, hbottom⟩ := (spriteVisible_iff tall o ly).mp hvis
  intro t
  have hindex := spriteTile_tileIndex m obj tall o ly
  have hsy := spriteTile_sy m obj tall o ly
  refine ⟨rfl, rfl, getLsbD_eq_true_iff o.attr 5, getLsbD_eq_true_iff o.attr 6, spriteTile_base m obj tall o ly,
    spriteTile_bank m obj tall o ly, spriteTile_pal m obj tall o ly, fun hshort => ?short, fun htall hline => ?top,
    fun htall hline => ?bottom, ?row⟩
  case short =>
    rw [if_neg (by simp [hshort])] at hindex hsy
    exact ⟨hindex, hsy⟩
  case top =>
    rw [if_neg fun h => absurd hline (not_lt.mpr h.2)] at hsy
    rw [if_pos htall, decide_eq_true hline, Bool.true_beq] at hindex
    exact ⟨hsy, hindex⟩
  case bottom =>
    rw [if_pos ⟨htall, hline⟩] at hsy
    rw [if_pos htall, decide_eq_false (not_lt.mpr hline), Bool.false_beq] at hindex
    simp only [Bool.not_eq_true', ← Bool.not_eq_true, ite_not] at hindex
    exact ⟨hsy, hindex⟩
  case row =>
    rw [show t.sy = _ from hsy]
    cases tall <;> simp only [Bool.false_eq_true, false_and, true_and, if_true, if_false] at hbottom ⊢
    · omega
    · split_ifs <;> omega

/-! ### The window (R180 to R183) -/

theorem State.drawWinLine_shown {s : State} {ly : Fin 144} (h : windowOnLine s.regs.wx s.regs.wy ly = true) :
    s.drawWinLine ly = { s with
      frame := (List.range' (windowFirstColumn s.regs.wx) (21 - windowFirstColumn s.regs.wx)).foldl
        (fun f x => f.drawTile s.vram (s.winTile ly x) ly) s.frame } := if_pos h

theorem State.drawWinLine_hidden {s : State} {ly : Fin 144} (h : ¬windowOnLine s.regs.wx s.regs.wy ly = true) :
    s.drawWinLine ly = s := if_neg h

/-- The first column drawn is never negative, as the division truncates toward zero and `wx` is at least -7 (D9). -/
theorem windowFirstColumn_cast (wx : Byte) : (windowFirstColumn wx : Int) = ((wx.toNat : Int) - 7).tdiv 8 := by
  revert wx
  decide

theorem State.winTile_covers (s : State) (ly : Fin 144) (i : Nat) (x : Fin 160) :
    (s.winTile ly i).Covers x ↔
      0 ≤ (x.val : Int) - ((s.regs.wx.toNat : Int) - 7 + i * 8) ∧
      (x.val : Int) - ((s.regs.wx.toNat : Int) - 7 + i * 8) < 8 := Iff.rfl

/-- A plot of priority 6 replaces every legal cell (R183). -/
theorem plotCell_six {old : Cell} (h : legalTag (cellTag old)) (c : Color) : plotCell old 6 c = mkCell 6 c := by
  have hle : (cellTag old).toNat ≤ 6 := by
    rcases h with h | h | h | h | h | h <;> rw [h] <;> decide
  exact if_pos hle

/-- Settles O31: the tiles shown stand side by side from `wx + 8 * (wx / 8)` on, each column under exactly one. -/
theorem windowShowsDoubledOffset : Obligations.WindowShowsDoubledOffset := by
  intro s ly
  refine ⟨fun hhidden => ?hidden, fun hly hwy hwx => ?shown⟩
  case hidden =>
    by_cases hly : ly.toNat < 144
    · rw [exec_drawWin_visible s (l := ⟨ly.toNat, hly⟩) rfl, State.drawWinLine_hidden]
      rw [windowOnLine_iff]
      dsimp only
      omega
    · exact s.next_onLine_above _ (by omega)
  case shown =>
    have hon : windowOnLine s.regs.wx s.regs.wy ⟨ly.toNat, hly⟩ = true := (windowOnLine_iff _ _ _).mpr ⟨hwy, hwx⟩
    have hdraw := State.drawWinLine_shown hon
    refine ⟨s.drawWinLine ⟨ly.toNat, hly⟩, exec_drawWin_visible s rfl, by rw [hdraw], fun x y => ?_⟩
    intro wx off vy
    have hfirst : (windowFirstColumn s.regs.wx : Int) = wx.tdiv 8 := windowFirstColumn_cast s.regs.wx
    refine ⟨fun hout => ?outside, fun col px hy hcol hx => ?inside⟩
    case outside =>
      by_cases hy : y.val = ly.toNat
      · obtain rfl : y = ⟨ly.toNat, hly⟩ := Fin.ext hy
        rw [hdraw]
        refine Frame.get_foldl_drawTile_miss _ _ _ _ _ _ fun i hi => ?_
        rw [List.mem_range'_1] at hi
        rw [State.winTile_covers]
        omega
      · exact s.drawWinLine_other _ x y fun hc => hy (congrArg Fin.val hc)
    case inside =>
      intro e idx
      obtain rfl : y = ⟨ly.toNat, hly⟩ := Fin.ext hy
      have hcell : (s.drawWinLine ⟨ly.toNat, hly⟩).frame.get x ⟨ly.toNat, hly⟩ =
          plotCell (s.frame.get x ⟨ly.toNat, hly⟩) 6 e.pal[idx.toNat] := by
        rw [hdraw]
        refine (Frame.get_foldl_drawTile_hit s.vram (s.winTile _) _ _ List.nodup_range' s.frame x col
          (List.mem_range'_1.mpr (by omega)) fun i _ hi => ?_).trans ?_
        · rw [State.winTile_covers] at hi
          omega
        · exact Frame.get_drawTile_place s.vram _ _ _ 6 _ s.frame x px ⟨vy % 8, by omega⟩
            (by simp only [windowLeft]; omega) (by simp only; omega)
      exact ⟨hcell, fun hlegal => hcell.trans (plotCell_six hlegal _)⟩

/-! ### `DRAW` (R160, R161) -/

/-- `DRAW` writes the framebuffer and the sprite counters only. -/
theorem State.drawLine_frame_counters (s : State) (ly : Fin 144) :
    s.drawLine ly = { s with frame := (s.drawLine ly).frame, spritesDrawn := (s.drawLine ly).spritesDrawn } := by
  apply State.ext_fields <;> simp

/-- Without the sprite pass the counter of the line ends at 0. -/
theorem State.drawLine_counter_of_disabled (s : State) (ly : Fin 144) (h : objEnabled s.regs.lcdc = false) :
    (s.drawLine ly).spritesDrawn[ly] = 0 := by
  have h0 := s.startLine_counter ly
  rw [State.drawLine_eq, h]
  simp only [Bool.false_eq_true, if_false]
  split_ifs <;> simpa using h0

/-- Settles O33. -/
theorem drawTouchesOnlyItsLine : Obligations.DrawTouchesOnlyItsLine := fun s _ =>
  ⟨s.next_onLine_above _, fun l hl =>
    ⟨_, exec_draw_visible s hl, s.drawLine_frame_counters l, s.drawLine_other l, s.drawLine_counter_other l,
      s.drawLine_counter l, s.drawLine_counter_of_disabled l⟩⟩

end Sys2Proof.Machine
end

section
/-! PROOFS. One `LINE` (44_timing_driver.md section 2): the scanline registers, the outputs in their order, and
what else it writes. -/

namespace Sys2Proof.Machine

theorem exec_line (s : State) : exec .line s = .next s.line := rfl

/-! ### `LY` and `STAT` -/

/-- Settles O34. -/
theorem lineAdvancesLy : Obligations.LineAdvancesLy := fun s => by
  refine ⟨s.line, exec_line s, ?_⟩
  rw [State.line_ly, nextLy_toNat]
  exact ⟨rfl, Nat.mod_lt _ (by decide)⟩

theorem State.line_stat_disabled {s : State} (h : lcdEnabled s.regs.lcdc = false) :
    s.line.regs.stat = s.regs.stat := by
  simp only [State.line_regs, h, Bool.false_eq_true, if_false]

theorem State.line_stat_enabled {s : State} (h : lcdEnabled s.regs.lcdc = true) :
    s.line.regs.stat = statAfterLine s.regs.stat s.regs.lyc (nextLy s.regs.ly) (isVBlankLine s.regs.ly) := by
  simp only [State.line_regs, h, if_true]

/-- Every `LINE` keeps `STAT[7:3]` (R109). -/
theorem State.line_stat_high (s : State) : s.line.regs.stat.toNat / 8 = s.regs.stat.toNat / 8 := by
  cases h : lcdEnabled s.regs.lcdc with
  | true => rw [State.line_stat_enabled h, statAfterLine_high]
  | false => rw [State.line_stat_disabled h]

theorem State.line_mode {s : State} (h : lcdEnabled s.regs.lcdc = true) :
    s.line.regs.stat.toNat % 4 = if 144 ≤ s.regs.ly.toNat then 1 else 0 := by
  rw [State.line_stat_enabled h, statAfterLine_mode]
  simp only [isVBlankLine, decide_eq_true_eq]

/-- The coincidence is evaluated after a visible line with its enable set (R196). -/
theorem coincidenceEvaluated_iff (stat ly : Byte) :
    coincidenceEvaluated stat (isVBlankLine ly) = true ↔ ly.toNat < 144 ∧ stat.getLsbD 6 = true := by
  simp [coincidenceEvaluated, isVBlankLine, lycIrqEnabled]

theorem beq_nextLy_iff (lyc ly : Byte) : (lyc == nextLy ly) = true ↔ lyc.toNat = (ly.toNat + 1) % 154 := by
  rw [beq_iff_eq, BitVec.toNat_eq, nextLy_toNat]

/-- Settles O35: bit 2 is the outcome of the comparison where the coincidence is evaluated. -/
theorem lineUpdatesStat : Obligations.LineUpdatesStat := by
  intro s
  refine ⟨s.line, exec_line s, State.line_stat_disabled, fun hen =>
    ⟨s.line_stat_high, State.line_mode hen, fun heval => ?evaluated, fun hkept => ?kept⟩⟩
  case evaluated =>
    have hbit : s.line.regs.stat.getLsbD 2 = true ↔ s.regs.lyc.toNat = s.regs.ly.toNat + 1 := by
      rw [State.line_stat_enabled hen, statAfterLine_bit2, if_pos ((coincidenceEvaluated_iff _ _).mpr heval),
        beq_nextLy_iff, Nat.mod_eq_of_lt (by omega)]
    exact ⟨hbit, fun h => by have := hbit.mp h; omega⟩
  case kept =>
    rw [State.line_stat_enabled hen, statAfterLine_bit2, if_neg (mt (coincidenceEvaluated_iff _ _).mp hkept)]

/-- Settles O43. -/
theorem modeLagsLyByOneLine : Obligations.ModeLagsLyByOneLine := by
  intro s hen hly
  refine ⟨s.line, exec_line s, ?_⟩
  have hmode := State.line_mode hen
  rw [State.line_ly, nextLy_toNat]
  split_ifs at hmode <;> omega

/-! ### The outputs (R75) -/

theorem eq_143_iff (ly : Byte) : ly = 143 ↔ ly.toNat = 143 := BitVec.toNat_eq

/-- The outputs of a `LINE`, in order, as conditions on the state before it. -/
def State.lineOutputs (s : State) : List Event :=
  let en := s.regs.lcdc.getLsbD 7
  let visible := decide (s.regs.ly.toNat < 144)
  let last := decide (s.regs.ly.toNat = 143)
  let hit := decide (s.regs.lyc.toNat = (s.regs.ly.toNat + 1) % 154)
  outputIf (visible && s.hdmaActive) .hdmaTick
    ++ outputIf (en && visible && s.regs.stat.getLsbD 6 && hit) (.raised .lcdc)
    ++ outputIf (en && visible && s.regs.stat.getLsbD 3) (.raised .lcdc)
    ++ outputIf (last && s.config.displayAttached) (.present s.lineDrawn.frame.cells)
    ++ outputIf (last && en) (.raised .vblank)
    ++ outputIf (last && en && s.regs.stat.getLsbD 4) (.raised .lcdc)

@[simp] theorem outputIf_false (e : Event) : outputIf false e = [] := rfl

theorem not_isVBlankLine (ly : Byte) : (!isVBlankLine ly) = decide (ly.toNat < 144) := by
  rw [isVBlankLine, ← decide_not]
  simp only [not_le]

theorem beq_nextLy (lyc ly : Byte) : (lyc == nextLy ly) = decide (lyc.toNat = (ly.toNat + 1) % 154) := by
  rw [Bool.eq_iff_iff, beq_nextLy_iff, decide_eq_true_iff]

/-- The VBlank mode enable that step 9 tests is the one from before the line (R199). -/
theorem State.line_vblankIrqEnabled (s : State) : vblankIrqEnabled s.line.regs.stat = s.regs.stat.getLsbD 4 :=
  getLsbD_of_high s.line_stat_high 4 (by decide)

theorem State.line_events_outputs (s : State) : s.line.events = s.events ++ s.lineOutputs := by
  rw [State.line_events, State.line_frame, State.line_vblankIrqEnabled]
  simp only [eq_143_iff, coincidenceEvaluated, not_isVBlankLine, beq_nextLy, lcdEnabled, lycIrqEnabled,
    hblankIrqEnabled, State.lineOutputs]
  cases s.regs.lcdc.getLsbD 7 <;> by_cases hlast : s.regs.ly.toNat = 143 <;> simp [hlast]

/-- Settles O36. -/
theorem lineEmitsInOrder : Obligations.LineEmitsInOrder := fun s => by
  refine ⟨s.line, exec_line s, ?_⟩
  intro en visible last hit
  rw [State.line_events_outputs, State.line_frame]
  simp only [State.lineOutputs, List.append_assoc]
  rfl

/-! ### The rest -/

theorem exec_draw (ly : Byte) (s : State) : exec (.draw ly) s = .next (s.onLine ly State.drawLine) := rfl

theorem State.lineDrawn_disabled {s : State} (h : lcdEnabled s.regs.lcdc = false) : s.lineDrawn = s := by
  simp only [State.lineDrawn, h, Bool.false_eq_true, if_false]

theorem State.lineDrawn_enabled {s : State} (h : lcdEnabled s.regs.lcdc = true) :
    s.lineDrawn = s.onLine s.regs.ly State.drawLine := by
  simp only [State.lineDrawn, h, if_true]

/-- What a `LINE` writes (R66). -/
theorem State.line_writes (s : State) : s.line = { s with
    regs := { s.regs with ly := s.line.regs.ly, stat := s.line.regs.stat }
    frame := s.line.frame, spritesDrawn := s.line.spritesDrawn, vblankCount := s.line.vblankCount
    requests := s.line.requests, events := s.line.events } := by
  apply State.ext_fields <;> simp
  rw [State.line_regs]

/-- Settles O37: what a line draws is `State.lineDrawn`, which is `DRAW` when the LCD is enabled. -/
theorem lineDrawsAndKeepsRest : Obligations.LineDrawsAndKeepsRest := by
  intro s
  refine ⟨s.line, exec_line s, s.line_writes, ?count, fun hoff => ?disabled,
    fun hon => ⟨_, exec_draw s.regs.ly s, ?enabled⟩⟩
  case count => simp only [State.line_vblankCount, eq_143_iff]
  case disabled => rw [State.line_frame, State.line_spritesDrawn, State.lineDrawn_disabled hoff]; exact ⟨rfl, rfl⟩
  case enabled => rw [State.line_frame, State.line_spritesDrawn, State.lineDrawn_enabled hon]; exact ⟨rfl, rfl⟩

end Sys2Proof.Machine
end

section
/-! PROOFS. `TICK` (44_timing_driver.md sections 1 and 3): it is an iteration of `LINE`, so what it does is what the
lines do one after the other. -/

namespace Sys2Proof.Machine

/-! ### `TICK` as an iteration of `LINE` (R190) -/

theorem State.iterate_line_setCycles (k : Nat) (s : State) (c : Nat) :
    State.line^[k] { s with lcdCycles := c } = { State.line^[k] s with lcdCycles := c } := by
  induction k generalizing s with
  | zero => rfl
  | succ k ih => rw [Function.iterate_succ_apply, Function.iterate_succ_apply, State.line_setCycles, ih]

/-- The loop with as many turns as the cycles allow: each takes 456 of them and runs one `LINE`. -/
theorem State.tickLoop_eq (k : Nat) (s : State) (h : 456 * k ≤ s.lcdCycles) :
    State.tickLoop k s = { State.line^[k] s with lcdCycles := s.lcdCycles - 456 * k } := by
  induction k generalizing s with
  | zero => rfl
  | succ k ih =>
    have hturn : State.line { s with lcdCycles := s.lcdCycles - 456 } =
        { s.line with lcdCycles := s.lcdCycles - 456 } := s.line_setCycles _
    have hrest : s.lcdCycles - 456 - 456 * k = s.lcdCycles - 456 * (k + 1) := by omega
    rw [State.tickLoop, if_pos (by omega), hturn, ih _ (by dsimp only; omega), State.iterate_line_setCycles,
      Function.iterate_succ_apply, ← hrest]

theorem State.tick_eq (s : State) (n : Nat) :
    s.tick n =
      { State.line^[(s.lcdCycles + n) / 456] s with lcdCycles := (s.lcdCycles + n) % 456 } := by
  have hrest : (s.lcdCycles + n) % 456 = s.lcdCycles + n - 456 * ((s.lcdCycles + n) / 456) := by omega
  rw [State.tick, State.tickLoop_eq _ _ (by dsimp only; omega), State.iterate_line_setCycles, hrest]

theorem exec_tick (n : Nat) (s : State) : exec (.tick n) s = .next (s.tick n) := rfl

/-- Settles O38. -/
theorem tickRunsOneLinePer456Cycles : Obligations.TickRunsOneLinePer456Cycles :=
  ⟨exec_line, fun s n => congrArg Host.Outcome.next (s.tick_eq n)⟩

/-- Settles O39: the lines of the two parts add up, and so do the remainders. -/
theorem ticksAdd : Obligations.TicksAdd := by
  intro s t a b ht
  obtain rfl : s.tick a = t := Host.Outcome.next.inj ht
  have hlines : ((s.lcdCycles + a) % 456 + b) / 456 + (s.lcdCycles + a) / 456 = (s.lcdCycles + (a + b)) / 456 := by
    omega
  have hrest : ((s.lcdCycles + a) % 456 + b) % 456 = (s.lcdCycles + (a + b)) % 456 := by omega
  rw [exec_tick, exec_tick, State.tick_eq, State.tick_eq s a, State.iterate_line_setCycles,
    ← Function.iterate_add_apply, State.tick_eq s (a + b)]
  dsimp only
  rw [hlines, hrest]

/-- Settles O40: no line is completed. -/
theorem shortTickOnlyAccumulates : Obligations.ShortTickOnlyAccumulates := by
  intro s n h
  rw [exec_tick, State.tick_eq, Nat.div_eq_of_lt h, Nat.mod_eq_of_lt h]
  rfl

/-! ### What a number of lines keeps and emits -/

/-- What every line keeps: the configuration, the HDMA input, `LCDC`, `LYC` and `STAT[7:3]`. -/
structure State.SameControls (s t : State) : Prop where
  config : t.config = s.config
  hdmaActive : t.hdmaActive = s.hdmaActive
  lcdc : t.regs.lcdc = s.regs.lcdc
  lyc : t.regs.lyc = s.regs.lyc
  stat : t.regs.stat.toNat / 8 = s.regs.stat.toNat / 8

theorem State.sameControls_iterate_line (s : State) (k : Nat) : s.SameControls (State.line^[k] s) := by
  induction k with
  | zero => exact ⟨rfl, rfl, rfl, rfl, rfl⟩
  | succ k ih =>
    rw [Function.iterate_succ_apply']
    exact ⟨(State.line_config _).trans ih.config, (State.line_hdmaActive _).trans ih.hdmaActive,
      (State.line_lcdc _).trans ih.lcdc, (State.line_lyc _).trans ih.lyc, (State.line_stat_high _).trans ih.stat⟩

/-- `LY` advances by one a line; a value above 153 is left behind after the first. -/
theorem State.iterate_line_ly (s : State) (k : Nat) (h : s.regs.ly.toNat < 154 ∨ 0 < k) :
    (State.line^[k] s).regs.ly.toNat = (s.regs.ly.toNat + k) % 154 := by
  induction k with
  | zero => exact (Nat.mod_eq_of_lt (h.resolve_right (Nat.lt_irrefl 0))).symm
  | succ k ih =>
    rw [Function.iterate_succ_apply', State.line_ly, nextLy_toNat]
    rcases Nat.eq_zero_or_pos k with rfl | hk
    · rfl
    · rw [ih (.inr hk)]
      omega

/-- The outputs of a number of lines: those of each, in order. -/
theorem State.iterate_line_events (s : State) (k : Nat) : (State.line^[k] s).events =
    s.events ++ (List.range k).flatMap fun j => (State.line^[j] s).lineOutputs := by
  induction k with
  | zero => simp
  | succ k ih =>
    rw [Function.iterate_succ_apply', State.line_events_outputs, ih, List.range_succ, List.flatMap_append,
      List.append_assoc, List.flatMap_singleton]

/-! ### The LCD disabled (R205) -/

/-- What a line of a disabled LCD leaves as it was. -/
theorem State.line_of_disabled {s : State} (h : lcdEnabled s.regs.lcdc = false) :
    s.line.regs.stat = s.regs.stat ∧ s.line.frame = s.frame ∧ s.line.spritesDrawn = s.spritesDrawn ∧
      s.line.requests = s.requests := by
  refine ⟨State.line_stat_disabled h, ?_, ?_, ?_⟩
  · rw [State.line_frame, State.lineDrawn_disabled h]
  · rw [State.line_spritesDrawn, State.lineDrawn_disabled h]
  · rw [State.line_requests, h]
    simp

theorem State.iterate_line_of_disabled {s : State} (h : lcdEnabled s.regs.lcdc = false) (k : Nat) :
    (State.line^[k] s).regs.stat = s.regs.stat ∧ (State.line^[k] s).frame = s.frame ∧
      (State.line^[k] s).spritesDrawn = s.spritesDrawn ∧ (State.line^[k] s).requests = s.requests := by
  induction k with
  | zero => exact ⟨rfl, rfl, rfl, rfl⟩
  | succ k ih =>
    rw [Function.iterate_succ_apply']
    obtain ⟨hstat, hframe, hsprites, hrequests⟩ := ih
    have hline := State.line_of_disabled (s := State.line^[k] s)
      (by rw [(s.sameControls_iterate_line k).lcdc, h])
    rwa [hstat, hframe, hsprites, hrequests] at hline

theorem mem_outputIf {b : Bool} {e e' : Event} : e ∈ outputIf b e' ↔ b = true ∧ e = e' := by
  cases b <;> simp [outputIf]

theorem State.mem_lineOutputs_of_disabled {s : State} (h : lcdEnabled s.regs.lcdc = false) {e : Event}
    (he : e ∈ s.lineOutputs) : (e = .hdmaTick ∧ s.hdmaActive = true) ∨
      (e = .present s.frame.cells ∧ s.config.displayAttached = true) := by
  have hlcd : s.regs.lcdc.getLsbD 7 = false := h
  simp only [State.lineOutputs, hlcd, State.lineDrawn_disabled h, List.mem_append, mem_outputIf, Bool.false_and,
    Bool.and_false, Bool.and_eq_true, Bool.false_eq_true, false_and, or_false] at he
  rcases he with ⟨⟨-, hhdma⟩, rfl⟩ | ⟨⟨-, hdisplay⟩, rfl⟩
  · exact .inl ⟨rfl, hhdma⟩
  · exact .inr ⟨rfl, hdisplay⟩

/-- Settles O42. -/
theorem disabledLcdOnlyCounts : Obligations.DisabledLcdOnlyCounts := by
  intro s n h
  rw [exec_tick, State.tick_eq]
  generalize hk : (s.lcdCycles + n) / 456 = k
  obtain ⟨hstat, hframe, hsprites, hrequests⟩ := State.iterate_line_of_disabled h k
  refine ⟨_, _, rfl, s.iterate_line_events k, hstat, hframe, hsprites, hrequests, fun hline => ?ly,
    fun e he => ?outputs⟩
  case ly => exact s.iterate_line_ly k (.inr (by omega))
  case outputs =>
    obtain ⟨j, -, hej⟩ := List.mem_flatMap.mp he
    have hsame := s.sameControls_iterate_line j
    have hout := State.mem_lineOutputs_of_disabled (by rw [hsame.lcdc]; exact h) hej
    rwa [hsame.hdmaActive, hsame.config, (State.iterate_line_of_disabled h j).2.1] at hout

/-! ### One frame (R204) -/

section
variable (p : Event → Bool)

theorem countP_outputIf (b : Bool) (e : Event) :
    (outputIf b e).countP p = if b = true ∧ p e = true then 1 else 0 := by
  cases b <;> simp [outputIf, List.countP_singleton]

theorem countP_flatMap_range (f : Nat → List Event) (k : Nat) :
    ((List.range k).flatMap f).countP p = ∑ j ∈ Finset.range k, (f j).countP p := by
  induction k with
  | zero => rfl
  | succ k ih =>
    rw [List.range_succ, List.flatMap_append, List.countP_append, ih, List.flatMap_singleton, Finset.sum_range_succ]

end

/-- Over 154 lines `LY` takes every value once, from wherever it starts. -/
theorem sum_range_mod_154 (g : Nat → Nat) (a : Nat) :
    ∑ j ∈ Finset.range 154, g ((a + j) % 154) = ∑ y ∈ Finset.range 154, g y := by
  have hshift := Equiv.sum_comp (Equiv.addLeft (Fin.ofNat 154 a)) fun y : Fin 154 => g y.val
  rw [Finset.sum_range, Finset.sum_range, ← hshift]
  refine Finset.sum_congr rfl fun j _ => ?_
  simp [Fin.val_add]

section
variable {s t : State} (h : s.SameControls t) (hen : s.regs.lcdc.getLsbD 7 = true)
include h hen

/-- The outputs of a line with the LCD enabled: `LY` is the line's own, the controls are those of `s`. -/
theorem State.SameControls.lineOutputs_eq : t.lineOutputs =
    outputIf (t.regs.ly.toNat < 144 ∧ s.hdmaActive = true) .hdmaTick
    ++ outputIf (t.regs.ly.toNat < 144 ∧ s.regs.stat.getLsbD 6 = true ∧
        s.regs.lyc.toNat = (t.regs.ly.toNat + 1) % 154) (.raised .lcdc)
    ++ outputIf (t.regs.ly.toNat < 144 ∧ s.regs.stat.getLsbD 3 = true) (.raised .lcdc)
    ++ outputIf (t.regs.ly.toNat = 143 ∧ s.config.displayAttached = true) (.present t.lineDrawn.frame.cells)
    ++ outputIf (t.regs.ly.toNat = 143) (.raised .vblank)
    ++ outputIf (t.regs.ly.toNat = 143 ∧ s.regs.stat.getLsbD 4 = true) (.raised .lcdc) := by
  have hbit (i : Nat) (hi : 3 ≤ i) : t.regs.stat.getLsbD i = s.regs.stat.getLsbD i := getLsbD_of_high h.stat i hi
  simp only [State.lineOutputs, h.lcdc, hen, h.lyc, h.config, h.hdmaActive, hbit 6 (by decide), hbit 3 (by decide),
    hbit 4 (by decide), Bool.true_and, Bool.and_true, Bool.decide_and, Bool.decide_eq_true, Bool.and_assoc]

theorem State.SameControls.countP_vblank :
    t.lineOutputs.countP (· == .raised .vblank) = if t.regs.ly.toNat = 143 then 1 else 0 := by
  rw [h.lineOutputs_eq hen]
  simp [countP_outputIf]

theorem State.SameControls.countP_present : t.lineOutputs.countP Event.isPresent =
    if t.regs.ly.toNat = 143 ∧ s.config.displayAttached = true then 1 else 0 := by
  rw [h.lineOutputs_eq hen]
  simp [countP_outputIf, Event.isPresent]

theorem State.SameControls.countP_hdmaTick : t.lineOutputs.countP (· == .hdmaTick) =
    if t.regs.ly.toNat < 144 ∧ s.hdmaActive = true then 1 else 0 := by
  rw [h.lineOutputs_eq hen]
  simp [countP_outputIf]

theorem State.SameControls.countP_lcdc : t.lineOutputs.countP (· == .raised .lcdc) =
    (if t.regs.ly.toNat < 144 ∧ s.regs.stat.getLsbD 6 = true ∧
      s.regs.lyc.toNat = (t.regs.ly.toNat + 1) % 154 then 1 else 0)
    + (if t.regs.ly.toNat < 144 ∧ s.regs.stat.getLsbD 3 = true then 1 else 0)
    + (if t.regs.ly.toNat = 143 ∧ s.regs.stat.getLsbD 4 = true then 1 else 0) := by
  rw [h.lineOutputs_eq hen]
  simp [countP_outputIf, add_assoc]

end

/-- The outputs of 154 lines. -/
def State.frameOutputs (s : State) : List Event :=
  (List.range 154).flatMap fun j => (State.line^[j] s).lineOutputs

/-- A count of the outputs that depends on a line's `LY` only adds up over the 154 values of `LY`. -/
theorem State.countP_frameOutputs {s : State} (hly : s.regs.ly.toNat < 154) {p : Event → Bool} {g : Nat → Nat}
    (hg : ∀ t, s.SameControls t → t.lineOutputs.countP p = g t.regs.ly.toNat) :
    s.frameOutputs.countP p = ∑ y ∈ Finset.range 154, g y := by
  rw [State.frameOutputs, countP_flatMap_range, ← sum_range_mod_154 g s.regs.ly.toNat]
  refine Finset.sum_congr rfl fun j _ => ?_
  rw [hg _ (s.sameControls_iterate_line j), s.iterate_line_ly j (.inl hly)]

/-! The sums over the 154 values of `LY`: one line 143, 144 visible lines, and the line before `LYC`. -/

theorem sum_line_143 (b : Bool) :
    (∑ y ∈ Finset.range 154, if y = 143 ∧ b = true then 1 else 0) = if b = true then 1 else 0 := by
  cases b <;> simp

theorem sum_visible_lines (b : Bool) :
    (∑ y ∈ Finset.range 154, if y < 144 ∧ b = true then 1 else 0) = if b = true then 144 else 0 := by
  cases b with
  | false => simp
  | true =>
    have hvisible : (Finset.range 154).filter (· < 144) = Finset.range 144 := by
      ext y
      simp only [Finset.mem_filter, Finset.mem_range]
      omega
    simp only [and_true, if_true, Finset.sum_boole, hvisible, Finset.card_range, Nat.cast_id]

theorem sum_coincidence (b : Bool) (lyc : Nat) :
    (∑ y ∈ Finset.range 154, if y < 144 ∧ b = true ∧ lyc = (y + 1) % 154 then 1 else 0) =
      if b = true ∧ 1 ≤ lyc ∧ lyc ≤ 144 then 1 else 0 := by
  by_cases h : b = true ∧ 1 ≤ lyc ∧ lyc ≤ 144
  · obtain ⟨rfl, hlow, hhigh⟩ := h
    have hline (y : Nat) : y < 144 ∧ lyc = (y + 1) % 154 ↔ y = lyc - 1 := by omega
    simp only [true_and, hline, Finset.sum_ite_eq', Finset.mem_range]
    rw [if_pos (by omega), if_pos ⟨hlow, hhigh⟩]
  · rw [if_neg h]
    exact Finset.sum_eq_zero fun y _ => if_neg fun hy => h ⟨hy.2.1, by omega⟩

theorem sum_lcdc_raises (lycIe hblIe vblIe : Bool) (lyc : Nat) :
    (∑ y ∈ Finset.range 154,
      ((if y < 144 ∧ lycIe = true ∧ lyc = (y + 1) % 154 then 1 else 0)
        + (if y < 144 ∧ hblIe = true then 1 else 0) + (if y = 143 ∧ vblIe = true then 1 else 0))) =
      (if lycIe = true ∧ 1 ≤ lyc ∧ lyc ≤ 144 then 1 else 0) + (if hblIe = true then 144 else 0)
        + (if vblIe = true then 1 else 0) := by
  rw [Finset.sum_add_distrib, Finset.sum_add_distrib, sum_coincidence, sum_visible_lines, sum_line_143]

theorem State.iterate_line_vblankCount (s : State) (k : Nat) : (State.line^[k] s).vblankCount =
    s.vblankCount + ∑ j ∈ Finset.range k, if (State.line^[j] s).regs.ly.toNat = 143 then 1 else 0 := by
  induction k with
  | zero => rfl
  | succ k ih =>
    rw [Function.iterate_succ_apply', State.line_vblankCount, ih, Finset.sum_range_succ, Nat.add_assoc]
    simp only [eq_143_iff]

/-- 154 lines hold one line 143. -/
theorem State.frame_vblankCount {s : State} (hly : s.regs.ly.toNat < 154) :
    (State.line^[154] s).vblankCount = s.vblankCount + 1 := by
  have hone : (∑ j ∈ Finset.range 154, if (s.regs.ly.toNat + j) % 154 = 143 then 1 else 0) = 1 :=
    (sum_range_mod_154 (fun y => if y = 143 then 1 else 0) s.regs.ly.toNat).trans (by simp)
  rw [State.iterate_line_vblankCount]
  simp only [s.iterate_line_ly _ (.inl hly), hone]

/-- Settles O41: each count of a line depends on its `LY` and on controls that every line keeps. -/
theorem frameEventCounts : Obligations.FrameEventCounts := by
  intro s hcycles hly hen
  have hlines : (s.lcdCycles + 70224) / 456 = 154 := by omega
  have hrest : (s.lcdCycles + 70224) % 456 = 0 := by omega
  have hevents : (State.line^[154] s).events = s.events ++ s.frameOutputs := s.iterate_line_events 154
  have hback := s.iterate_line_ly 154 (.inl hly)
  have hcount := State.frame_vblankCount hly
  rw [exec_tick, State.tick_eq, hlines, hrest]
  generalize State.line^[154] s = t at *
  refine ⟨_, s.frameOutputs, rfl, hevents, rfl, BitVec.eq_of_toNat_eq (by dsimp only; omega), hcount, ?vblank,
    ?present, ?hdma, ?lcdc⟩
  case vblank =>
    exact (State.countP_frameOutputs (g := fun y => if y = 143 then 1 else 0) hly
      fun t ht => ht.countP_vblank hen).trans (by simp)
  case present => exact (State.countP_frameOutputs hly fun t ht => ht.countP_present hen).trans (sum_line_143 _)
  case hdma => exact (State.countP_frameOutputs hly fun t ht => ht.countP_hdmaTick hen).trans (sum_visible_lines _)
  case lcdc =>
    exact (State.countP_frameOutputs hly fun t ht => ht.countP_lcdc hen).trans (sum_lcdc_raises _ _ _ _)

end Sys2Proof.Machine
end

section
/-! PROOFS. The whole block: what no operation writes, and what the request bits record. -/

namespace Sys2Proof.Machine

/-! ### What an operation leaves alone -/

/-- Settles O46: an operation that may not write the palette store emits, draws, runs lines, or does nothing. -/
theorem palettesPersist : Obligations.PalettesPersist := by
  intro i s t h hkeeps
  refine exec_induct (P := fun t => t.pal = s.pal) h (fun p hp => ?pal) (fun e _ _ _ => rfl) (fun _ => rfl)
    (fun f n _ _ => rfl) (fun n _ => ?tick) (fun _ => s.line_pal) (fun hi => ?reset)
  case pal => rw [hp] at hkeeps; cases hkeeps
  case tick =>
    exact State.tick_induct (P := fun t => t.pal = s.pal) (fun _ _ => id) (fun u hu => u.line_pal.trans hu) s n rfl
  case reset => subst hi; cases hkeeps

/-- What no operation writes: the memories, the inputs, the host's list, the registers but `LY` and `STAT`, and
`STAT[7:3]` (R66, R109). -/
structure State.KeepsHostState (s t : State) : Prop where
  vram : t.vram = s.vram
  oam : t.oam = s.oam
  config : t.config = s.config
  hdmaActive : t.hdmaActive = s.hdmaActive
  pending : t.pending = s.pending
  regs : ∀ r, r ≠ .ly → r ≠ .stat → t.regs.get r = s.regs.get r
  stat : t.regs.stat.toNat / 8 = s.regs.stat.toNat / 8

theorem State.KeepsHostState.of_regs_eq {s t : State} (vram : t.vram = s.vram) (oam : t.oam = s.oam)
    (config : t.config = s.config) (hdmaActive : t.hdmaActive = s.hdmaActive) (pending : t.pending = s.pending)
    (regs : t.regs = s.regs) : s.KeepsHostState t :=
  ⟨vram, oam, config, hdmaActive, pending, fun _ _ _ => by rw [regs], by rw [regs]⟩

theorem State.KeepsHostState.line {s t : State} (h : s.KeepsHostState t) : s.KeepsHostState t.line where
  vram := t.line_vram.trans h.vram
  oam := t.line_oam.trans h.oam
  config := t.line_config.trans h.config
  hdmaActive := t.line_hdmaActive.trans h.hdmaActive
  pending := t.line_pending.trans h.pending
  regs r hly hstat := by rw [State.line_regs, LcdRegs.get_ly_stat _ _ _ hly hstat, h.regs r hly hstat]
  stat := t.line_stat_high.trans h.stat

theorem State.keepsHostState_refl (s : State) : s.KeepsHostState s := .of_regs_eq rfl rfl rfl rfl rfl rfl

theorem State.keepsHostState_tick (s : State) (n : Nat) : s.KeepsHostState (s.tick n) :=
  State.tick_induct (P := s.KeepsHostState)
    (fun _ _ h => ⟨h.vram, h.oam, h.config, h.hdmaActive, h.pending, h.regs, h.stat⟩) (fun _ h => h.line) s n s.keepsHostState_refl

theorem State.keepsHostState_restart (s : State) : s.KeepsHostState s.restart where
  vram := rfl
  oam := rfl
  config := rfl
  hdmaActive := rfl
  pending := rfl
  regs r hly hstat := LcdRegs.get_ly_stat s.regs _ _ hly hstat
  stat := by
    show (s.regs.stat &&& 0xFC).toNat / 8 = _
    rw [and_FC_toNat]
    omega

theorem exec_keepsHostState {i : Instr} {s t : State} (h : exec i s = .next t) : s.KeepsHostState t :=
  exec_induct (P := s.KeepsHostState) h (fun _ _ => .of_regs_eq rfl rfl rfl rfl rfl rfl)
    (fun _ _ _ _ => .of_regs_eq rfl rfl rfl rfl rfl rfl) (fun _ => s.keepsHostState_refl)
    (fun _ _ _ _ => .of_regs_eq rfl rfl rfl rfl rfl rfl) (fun n _ => s.keepsHostState_tick n)
    (fun _ => s.keepsHostState_refl.line) (fun _ => s.keepsHostState_restart)

/-- Only `TICK`, `LINE` and `RESET` write a register (R45). -/
theorem exec_regs_of_not_writesScanline {i : Instr} {s t : State} (h : exec i s = .next t)
    (hi : writesScanline i = false) : t.regs = s.regs := by
  refine exec_induct (P := fun t => t.regs = s.regs) h (fun _ _ => rfl) (fun _ _ _ _ => rfl) (fun _ => rfl)
    (fun _ _ _ _ => rfl) (fun n hn => ?_) (fun hl => ?_) (fun hr => ?_)
  all_goals subst i; cases hi

/-- Settles O45. -/
theorem onlyLyAndStatAreWritten : Obligations.OnlyLyAndStatAreWritten := by
  intro i s t h
  obtain ⟨hvram, hoam, hconfig, hhdma, hpending, hregs, hstat⟩ := exec_keepsHostState h
  exact ⟨hvram, hoam, hconfig, hhdma, hpending, hregs, hstat, exec_regs_of_not_writesScanline h⟩

/-! ### Requests (R226, R231) -/

/-- The outputs from `s` to `t` are appended, and each request bit is set exactly if it was or they raise it. -/
def State.Records (s t : State) : Prop := ∃ es : List Event, t.events = s.events ++ es ∧
  (t.requests.vblank = true ↔ s.requests.vblank = true ∨ .raised .vblank ∈ es) ∧
  (t.requests.lcdc = true ↔ s.requests.lcdc = true ∨ .raised .lcdc ∈ es)

theorem State.Records.of_eq {s t : State} (hevents : t.events = s.events) (hrequests : t.requests = s.requests) :
    s.Records t := ⟨[], by simp [hevents], by simp [hrequests], by simp [hrequests]⟩

theorem State.Records.trans {s t u : State} (h : s.Records t) (h' : t.Records u) : s.Records u := by
  obtain ⟨es, he, hv, hl⟩ := h
  obtain ⟨es', he', hv', hl'⟩ := h'
  refine ⟨es ++ es', by rw [he', he, List.append_assoc], ?_, ?_⟩
  · rw [hv', hv, List.mem_append, or_assoc]
  · rw [hl', hl, List.mem_append, or_assoc]

theorem State.records_emit (s : State) {e : Event} (he : e.isRaise = false) : s.Records (s.emit e) := by
  have hne (k : Irq) : Event.raised k ≠ e := by
    rintro rfl
    cases he
  exact ⟨[e], rfl, by simp [hne], by simp [hne]⟩

theorem State.records_line (s : State) : s.Records s.line := by
  refine ⟨s.lineOutputs, s.line_events_outputs, ?_, ?_⟩ <;>
    rw [State.line_requests, State.line_vblankIrqEnabled] <;>
    simp only [eq_143_iff, coincidenceEvaluated, not_isVBlankLine, beq_nextLy, lcdEnabled, lycIrqEnabled,
      hblankIrqEnabled, State.lineOutputs, List.mem_append, mem_outputIf]
  · simp
  · simp [and_or_left, and_assoc, and_left_comm]

theorem State.records_tick (s : State) (n : Nat) : s.Records (s.tick n) :=
  State.tick_induct (P := s.Records) (fun _ _ h => h) (fun t h => h.trans t.records_line) s n (.of_eq rfl rfl)

/-- Settles O44. -/
theorem requestBitsRecordRaises : Obligations.RequestBitsRecordRaises := fun _ s _ h =>
  exec_induct (P := s.Records) h (fun _ _ => .of_eq rfl rfl) (fun _ he _ _ => s.records_emit he)
    (fun _ => .of_eq rfl rfl) (fun _ _ _ _ => .of_eq rfl rfl) (fun n _ => s.records_tick n)
    (fun _ => s.records_line) (fun _ => .of_eq rfl rfl)

end Sys2Proof.Machine
end

section
/-! PROOFS. What the block does not look at: in DMG mode VRAM bank 1 (10_state.md R37), and the three palette
registers (R25). -/

namespace Sys2Proof.Machine

/-- A relation between two runs that the start of a line establishes and every pass keeps holds after `DRAW`. -/
theorem State.drawLine_rel {R : State → State → Prop} {s t : State} (ly : Fin 144) (hlcdc : s.regs.lcdc = t.regs.lcdc)
    (h0 : R (s.startLine ly) (t.startLine ly)) (hb : ∀ s t, R s t → R (s.drawBgLine ly) (t.drawBgLine ly))
    (ho : ∀ s t, R s t → R (s.drawObjLine ly) (t.drawObjLine ly))
    (hw : ∀ s t, R s t → R (s.drawWinLine ly) (t.drawWinLine ly)) : R (s.drawLine ly) (t.drawLine ly) := by
  have gated {b : Bool} {s s' t t' : State} (hon : R s t) (hoff : R s' t') :
      R (if b then s else s') (if b then t else t') := by
    cases b
    · exact hoff
    · exact hon
  rw [State.drawLine_eq, State.drawLine_eq, hlcdc]
  have h1 := gated (b := bgEnabled t.regs.lcdc) (hb _ _ h0) h0
  have h2 := gated (b := objEnabled t.regs.lcdc) (ho _ _ h1) h1
  exact gated (hw _ _ h2) h2

/-! ### VRAM bank 1 in DMG mode -/

section
variable {v w : Memory} (h : ∀ a, a < 8192 → v.read a = w.read a)
include h

/-- Every byte of a tile of bank 0 is in bank 0 (R69). -/
theorem fetchRow_bank0 (n : BitVec 9) (r : BitVec 3) (fx fy : Bool) :
    fetchRow v 0 n r fx fy = fetchRow w 0 n r fx fy := by
  have hn := n.isLt
  have hr := (if fy then 7 - r else r).isLt
  have haddr : tileRowAddr 0 n (if fy then 7 - r else r) + 1 < 8192 := by
    rw [tileRowAddr, show (0 : BitVec 1).toNat = 0 from rfl]
    omega
  simp only [fetchRow, h _ haddr, h _ (Nat.lt_of_succ_lt haddr)]

theorem Frame.drawTile_bank0 {t : TileDraw} (ht : t.bank = 0) (ly : Fin 144) (f : Frame) :
    f.drawTile v t ly = f.drawTile w t ly := by
  simp only [Frame.drawTile, ht, fetchRow_bank0 h]

theorem Frame.foldl_drawTile_bank0 {t' t : Nat → TileDraw} {l : List Nat}
    (ht : ∀ x ∈ l, t' x = t x ∧ (t x).bank = 0) (ly : Fin 144) (f : Frame) :
    l.foldl (fun f x => f.drawTile v (t' x) ly) f = l.foldl (fun f x => f.drawTile w (t x) ly) f := by
  refine List.foldl_ext _ _ _ fun f x hx => ?_
  rw [(ht x hx).1, Frame.drawTile_bank0 h (ht x hx).2]

/-- In DMG mode a map position is its tile byte alone, which is read in bank 0 (R163). -/
theorem mapEntry_bank0 (bg : Vector Palette 8) (u : Bool) {off ty tx : Nat} (ha : mapAddr off ty tx < 8192) :
    mapEntry .dmg v bg u off ty tx = mapEntry .dmg w bg u off ty tx := by
  simp only [mapEntry, mapAttr, h _ ha]

end

theorem mapEntry_dmg_bank (vram : Memory) (bg : Vector Palette 8) (u : Bool) (off ty tx : Nat) :
    (mapEntry .dmg vram bg u off ty tx).bank = 0 := by
  simp [mapEntry, mapAttr]

theorem mapOffset_le (select : Bool) : mapOffset select ≤ 7168 := by
  cases select <;> decide

/-- The memory `v` has the bytes of bank 0 of `s`, which is in DMG mode. -/
structure State.SameBank0 (s : State) (v : Memory) : Prop where
  mode : s.config.mode = .dmg
  reads : ∀ a, a < 8192 → v.read a = s.vram.read a

section
variable {s : State} {v : Memory} (h : s.SameBank0 v) (ly : Fin 144)
include h

theorem State.SameBank0.mapTile (select : Bool) {ty tx : Nat} (hy : ty < 32) (hx : tx < 32) :
    ({ s with vram := v } : State).mapTile (mapOffset select) ty tx = s.mapTile (mapOffset select) ty tx := by
  have hoff := mapOffset_le select
  simp only [State.mapTile, h.mode]
  exact mapEntry_bank0 h.reads _ _ (by rw [mapAddr]; omega)

theorem State.SameBank0.mapTile_bank (off ty tx : Nat) : (s.mapTile off ty tx).bank = 0 := by
  rw [State.mapTile, h.mode, mapEntry_dmg_bank]

theorem State.SameBank0.bgTile (x : Nat) :
    ({ s with vram := v } : State).bgTile ly x = s.bgTile ly x ∧ (s.bgTile ly x).bank = 0 := by
  refine ⟨?_, h.mapTile_bank _ _ _⟩
  simp only [State.bgTile]
  rw [h.mapTile _ (Nat.mod_lt _ (by decide)) (Nat.mod_lt _ (by decide))]

theorem State.SameBank0.winTile {x : Nat} (hx : x < 32) :
    ({ s with vram := v } : State).winTile ly x = s.winTile ly x ∧ (s.winTile ly x).bank = 0 := by
  refine ⟨?_, h.mapTile_bank _ _ _⟩
  simp only [State.winTile]
  rw [h.mapTile _ (by omega) hx]

theorem State.SameBank0.drawBgLine :
    ({ s with vram := v } : State).drawBgLine ly = { s.drawBgLine ly with vram := v } := by
  simp only [State.drawBgLine]
  rw [Frame.foldl_drawTile_bank0 h.reads fun x _ => h.bgTile ly x]

theorem State.SameBank0.drawSprites (es : List Nat) (f : Frame) (n : Nat) :
    ({ s with vram := v } : State).drawSprites ly es f n = s.drawSprites ly es f n := by
  induction es generalizing f n with
  | nil => rfl
  | cons e es ih =>
    have hbank : (s.spriteTileAt (oamEntry s.oam e) ly).bank = 0 := by
      rw [State.spriteTileAt, h.mode]
      rfl
    unfold State.drawSprites
    simp only [ih]
    rw [← Frame.drawTile_bank0 h.reads hbank]
    rfl

theorem State.SameBank0.drawObjLine :
    ({ s with vram := v } : State).drawObjLine ly = { s.drawObjLine ly with vram := v } := by
  simp only [State.drawObjLine, h.drawSprites]

theorem State.SameBank0.drawWinLine :
    ({ s with vram := v } : State).drawWinLine ly = { s.drawWinLine ly with vram := v } := by
  by_cases hon : windowOnLine s.regs.wx s.regs.wy ly = true
  · rw [State.drawWinLine_shown hon, State.drawWinLine_shown (s := { s with vram := v }) hon]
    dsimp only
    rw [Frame.foldl_drawTile_bank0 h.reads fun x hx => h.winTile ly (by rw [List.mem_range'_1] at hx; omega)]
  · rw [State.drawWinLine_hidden hon, State.drawWinLine_hidden (s := { s with vram := v }) hon]

theorem State.SameBank0.of_eq {t : State} (hconfig : t.config = s.config) (hvram : t.vram = s.vram) : t.SameBank0 v :=
  ⟨by rw [hconfig, h.mode], by rw [hvram]; exact h.reads⟩

theorem State.SameBank0.drawLine :
    ({ s with vram := v } : State).drawLine ly = { s.drawLine ly with vram := v } := by
  have hrel := State.drawLine_rel (s := s) (t := { s with vram := v })
    (R := fun t u => t.SameBank0 v ∧ u = { t with vram := v }) ly rfl ⟨h.of_eq rfl rfl, rfl⟩ ?bg ?obj ?win
  · exact hrel.2
  case bg => rintro t - ⟨ht, rfl⟩; exact ⟨ht.of_eq rfl rfl, ht.drawBgLine ly⟩
  case obj => rintro t - ⟨ht, rfl⟩; exact ⟨ht.of_eq rfl rfl, ht.drawObjLine ly⟩
  case win => rintro t - ⟨ht, rfl⟩; exact ⟨ht.of_eq (by simp) (by simp), ht.drawWinLine ly⟩

theorem State.SameBank0.lineDrawn :
    ({ s with vram := v } : State).lineDrawn = { s.lineDrawn with vram := v } := by
  simp only [State.lineDrawn, State.onLine, h.drawLine]
  split_ifs <;> rfl

theorem State.SameBank0.line : ({ s with vram := v } : State).line = { s.line with vram := v } := by
  apply State.ext_fields <;>
    simp [State.line_regs, State.line_vblankCount, State.line_events, State.line_requests, h.lineDrawn]

end

theorem State.SameBank0.iterate_line {s : State} {v : Memory} (h : s.SameBank0 v) (k : Nat) :
    State.line^[k] { s with vram := v } = { State.line^[k] s with vram := v } := by
  induction k generalizing s with
  | zero => rfl
  | succ k ih =>
    rw [Function.iterate_succ_apply, Function.iterate_succ_apply, h.line, ih (h.of_eq s.line_config s.line_vram)]

/-- Settles O51: each line of the `TICK` draws from bank 0 only. -/
theorem dmgTickIgnoresBank1 : Obligations.DmgTickIgnoresBank1 := by
  intro s vram n t hdmg hreads ht
  obtain rfl : s.tick n = t := Host.Outcome.next.inj ht
  rw [exec_tick, State.tick_eq, State.SameBank0.iterate_line ⟨hdmg, hreads⟩, State.tick_eq]

/-! ### The palette registers -/

section
variable (s : State) (b o₀ o₁ : Byte)

/-- Other values in `BGP`, `OBP0` and `OBP1`. -/
def State.setPaletteRegs : State := { s with regs := { s.regs with bgp := b, obp0 := o₀, obp1 := o₁ } }

theorem State.drawsAlike_setPaletteRegs : (s.setPaletteRegs b o₀ o₁).DrawsAlike s :=
  ⟨rfl, rfl, rfl, rfl, rfl, rfl, rfl, rfl, rfl, rfl, rfl⟩

theorem State.drawLine_setPaletteRegs (ly : Fin 144) :
    (s.setPaletteRegs b o₀ o₁).drawLine ly = (s.drawLine ly).setPaletteRegs b o₀ o₁ := by
  have h := (s.drawsAlike_setPaletteRegs b o₀ o₁).drawLine ly
  apply State.ext_fields <;> simp [State.setPaletteRegs, ← h.frame, ← h.spritesDrawn]

theorem State.line_setPaletteRegs :
    (s.setPaletteRegs b o₀ o₁).line = s.line.setPaletteRegs b o₀ o₁ := by
  have h := (s.drawsAlike_setPaletteRegs b o₀ o₁).lineDrawn rfl
  apply State.ext_fields <;>
    simp [State.setPaletteRegs, State.line_regs, State.line_vblankCount, State.line_events, State.line_requests,
      ← h.frame, ← h.spritesDrawn]

theorem State.drawObjLine_setPaletteRegs (ly : Fin 144) :
    (s.setPaletteRegs b o₀ o₁).drawObjLine ly = (s.drawObjLine ly).setPaletteRegs b o₀ o₁ := by
  simp only [State.drawObjLine, (s.drawsAlike_setPaletteRegs b o₀ o₁).drawSprites]
  rfl

theorem State.drawWinLine_setPaletteRegs (ly : Fin 144) :
    (s.setPaletteRegs b o₀ o₁).drawWinLine ly = (s.drawWinLine ly).setPaletteRegs b o₀ o₁ := by
  by_cases hon : windowOnLine s.regs.wx s.regs.wy ly = true
  · rw [State.drawWinLine_shown hon, State.drawWinLine_shown (s := s.setPaletteRegs b o₀ o₁) hon]
    rfl
  · rw [State.drawWinLine_hidden hon, State.drawWinLine_hidden (s := s.setPaletteRegs b o₀ o₁) hon]

theorem State.onLine_setPaletteRegs (ly : Byte) {p : State → Fin 144 → State}
    (hp : ∀ l, p (s.setPaletteRegs b o₀ o₁) l = (p s l).setPaletteRegs b o₀ o₁) :
    (s.setPaletteRegs b o₀ o₁).onLine ly p = (s.onLine ly p).setPaletteRegs b o₀ o₁ := by
  simp only [State.onLine, hp]
  split <;> rfl

theorem State.present_setPaletteRegs :
    (s.setPaletteRegs b o₀ o₁).present = s.present.setPaletteRegs b o₀ o₁ := by
  apply State.ext_fields <;> simp [State.setPaletteRegs]

theorem State.tick_setPaletteRegs (n : Nat) :
    (s.setPaletteRegs b o₀ o₁).tick n = (s.tick n).setPaletteRegs b o₀ o₁ := by
  have hcomm : Function.Semiconj (State.setPaletteRegs · b o₀ o₁) State.line State.line :=
    fun t => (t.line_setPaletteRegs b o₀ o₁).symm
  have hlines := hcomm.iterate_right ((s.lcdCycles + n) / 456) s
  rw [State.tick_eq, State.tick_eq]
  dsimp only [State.setPaletteRegs] at hlines ⊢
  rw [← hlines]

end

/-- Settles O52: every operation commutes with `State.setPaletteRegs`. -/
theorem paletteRegistersAreNotRead : Obligations.PaletteRegistersAreNotRead := by
  intro i s t b o₀ o₁ h
  show exec i (s.setPaletteRegs b o₀ o₁) = .next (t.setPaletteRegs b o₀ o₁)
  cases i
  case palSetDmgBg | palSetDmgObj0 | palSetDmgObj1 | palWriteCgbBg | palWriteCgbObj =>
    obtain ⟨hmode, rfl⟩ := State.inMode_next.mp h
    exact State.inMode_next.mpr ⟨hmode, rfl⟩
  case tileFetchRow | fbPlot | drawTile =>
    simp only [exec, execTileFetchRow, execFbPlot, execDrawTile] at h ⊢
    split_ifs at h ⊢
    cases h
    rfl
  case palBg | palObj | fbClear | reset | palInit =>
    cases h
    rfl
  all_goals
    cases h
    refine congrArg Host.Outcome.next ?_
  case fbPresent => exact s.present_setPaletteRegs b o₀ o₁
  case draw ly => exact s.onLine_setPaletteRegs b o₀ o₁ ly fun l => s.drawLine_setPaletteRegs b o₀ o₁ l
  case drawBg ly => exact s.onLine_setPaletteRegs b o₀ o₁ ly fun l => rfl
  case drawObj ly => exact s.onLine_setPaletteRegs b o₀ o₁ ly fun l => s.drawObjLine_setPaletteRegs b o₀ o₁ l
  case drawWin ly => exact s.onLine_setPaletteRegs b o₀ o₁ ly fun l => s.drawWinLine_setPaletteRegs b o₀ o₁ l
  case tick n => exact s.tick_setPaletteRegs b o₀ o₁ n
  case line => exact s.line_setPaletteRegs b o₀ o₁

end Sys2Proof.Machine
end

section
/-! PROOFS. The invariant of the block (10_state.md R34, R36, R41, 42_framebuffer.md R154): every operation and every
host step keeps it. -/

namespace Sys2Proof.Machine

/-! ### The invariant, part by part -/

section
variable {s t : State} (hs : s.Inv)
include hs

/-- A change that writes, of all the invariant speaks of, the framebuffer and the counters only. -/
theorem State.Inv.of_drawing (tags : t.frame.TagsLegal) (counters : t.CountersBounded) (config : t.config = s.config)
    (pal : t.pal = s.pal) (vram : t.vram = s.vram) (oam : t.oam = s.oam) (lcdCycles : t.lcdCycles = s.lcdCycles) :
    t.Inv where
  tags := tags
  counters := counters
  cycles := lcdCycles.trans_lt hs.cycles
  memory := by
    rw [State.MemoryCanonical, vram, oam]
    exact hs.memory
  palettes := by
    rw [State.PaletteCoherent, config, pal]
    exact hs.palettes

theorem State.Inv.setPal {p : PaletteStore} (hp : ({ s with pal := p } : State).PaletteCoherent) :
    ({ s with pal := p } : State).Inv := ⟨hs.tags, hs.counters, hs.cycles, hs.memory, hp⟩

/-- In DMG mode the invariant says nothing of the palette store. -/
theorem State.Inv.setDmgPal (hdmg : s.config.mode = .dmg) (p : PaletteStore) : ({ s with pal := p } : State).Inv :=
  hs.setPal fun hcgb => nomatch hdmg.symm.trans hcgb

theorem State.Inv.setFrame {f : Frame} (hf : f.TagsLegal) : ({ s with frame := f } : State).Inv :=
  hs.of_drawing hf hs.counters rfl rfl rfl rfl rfl

theorem State.Inv.setCycles {c : Nat} (hc : c < 456) : ({ s with lcdCycles := c } : State).Inv :=
  ⟨hs.tags, hs.counters, hc, hs.memory, hs.palettes⟩

theorem State.Inv.setMemories {v o : Memory} (hv : Memory.wf vramSize v) (ho : Memory.wf oamSize o) :
    ({ s with vram := v, oam := o } : State).Inv := ⟨hs.tags, hs.counters, hs.cycles, ⟨hv, ho⟩, hs.palettes⟩

/-- The invariant speaks neither of the registers, the inputs and the outputs nor of the host's list. -/
theorem State.Inv.setRest (regs : LcdRegs) (vblankCount : Nat) (hdmaActive : Bool) (requests : Requests)
    (events : List Event) (pending : List Request) : ({ s with
      regs := regs, vblankCount := vblankCount, hdmaActive := hdmaActive, requests := requests, events := events
      pending := pending } : State).Inv := hs.of_drawing hs.tags hs.counters rfl rfl rfl rfl rfl

theorem State.Inv.emit (e : Event) : (s.emit e).Inv := hs.setRest _ _ _ _ _ _

theorem State.Inv.present : s.present.Inv := by
  unfold State.present State.emitIf
  split
  · exact hs.emit _
  · exact hs

/-! ### Drawing -/

section
variable (ly : Fin 144)

theorem State.Inv.drawBgLine : (s.drawBgLine ly).Inv := hs.setFrame (s.drawBgLine_tagsLegal ly hs.tags)

theorem State.Inv.drawWinLine : (s.drawWinLine ly).Inv :=
  hs.of_drawing (s.drawWinLine_tagsLegal ly hs.tags)
    (by rw [State.CountersBounded, State.drawWinLine_spritesDrawn]; exact hs.counters)
    (s.drawWinLine_config ly) (s.drawWinLine_pal ly) (s.drawWinLine_vram ly) (s.drawWinLine_oam ly)
    (s.drawWinLine_lcdCycles ly)

theorem State.drawObjLine_countersBounded : (s.drawObjLine ly).CountersBounded := fun k => by
  by_cases h : k = ly
  · subst h
    exact s.drawObjLine_counter k (hs.counters k)
  · rw [s.drawObjLine_counter_other ly k h]
    exact hs.counters k

theorem State.Inv.drawObjLine : (s.drawObjLine ly).Inv :=
  hs.of_drawing (s.drawObjLine_tagsLegal ly hs.tags) (State.drawObjLine_countersBounded hs ly) rfl rfl rfl rfl rfl

theorem State.Inv.drawLine : (s.drawLine ly).Inv :=
  hs.of_drawing (s.drawLine_tagsLegal ly hs.tags) (s.drawLine_countersBounded ly hs.counters)
    (s.drawLine_config ly) (s.drawLine_pal ly) (s.drawLine_vram ly) (s.drawLine_oam ly) (s.drawLine_lcdCycles ly)

end

/-! ### Lines, cycles and reset -/

theorem State.Inv.line : s.line.Inv :=
  hs.of_drawing (by rw [State.line_frame]; exact s.lineDrawn_tagsLegal hs.tags)
    (by rw [State.CountersBounded, State.line_spritesDrawn]; exact s.lineDrawn_countersBounded hs.counters)
    s.line_config s.line_pal s.line_vram s.line_oam s.line_lcdCycles

theorem State.Inv.iterate_line (k : Nat) : (State.line^[k] s).Inv := by
  induction k with
  | zero => exact hs
  | succ k ih =>
    rw [Function.iterate_succ_apply']
    exact ih.line

theorem State.Inv.tick (n : Nat) : (s.tick n).Inv := by
  rw [State.tick_eq]
  exact (hs.iterate_line _).setCycles (Nat.mod_lt _ (by decide))

theorem State.Inv.palInit : ({ s with pal := PaletteStore.init s.config s.pal } : State).Inv :=
  hs.setPal (State.paletteCoherent_of_init rfl)

theorem State.Inv.restart : s.restart.Inv where
  tags := Frame.tagsLegal_cleared
  counters l := (spritesDrawn_zero l).trans_le (Nat.zero_le 10)
  cycles := show 0 < 456 by decide
  memory := hs.memory
  palettes := State.paletteCoherent_of_init (p := s.pal) rfl

/-! ### CGB palette writes (R34) -/

theorem State.Inv.writeBg (hcgb : s.config.mode = .cgb) (o : BitVec 6) (v : Byte) :
    ({ s with pal := s.pal.writeBg o v } : State).Inv :=
  hs.setPal fun _ => ⟨setSlot_coherent (hs.palettes hcgb).1 o v, (hs.palettes hcgb).2⟩

theorem State.Inv.writeObj (hcgb : s.config.mode = .cgb) (o : BitVec 6) (v : Byte) :
    ({ s with pal := s.pal.writeObj o v } : State).Inv :=
  hs.setPal fun _ => ⟨(hs.palettes hcgb).1, setSlot_coherent (hs.palettes hcgb).2 o v⟩

/-! ### Operations and host steps -/

/-- Every operation keeps the invariant. -/
theorem State.Inv.exec {i : Instr} (h : exec i s = .next t) : t.Inv := by
  cases i
  case palSetDmgBg | palSetDmgObj0 | palSetDmgObj1 =>
    obtain ⟨hdmg, rfl⟩ := State.inMode_next.mp h
    exact hs.setDmgPal hdmg _
  case palWriteCgbBg o v =>
    obtain ⟨hcgb, rfl⟩ := State.inMode_next.mp h
    exact hs.writeBg hcgb o v
  case palWriteCgbObj o v =>
    obtain ⟨hcgb, rfl⟩ := State.inMode_next.mp h
    exact hs.writeObj hcgb o v
  case tileFetchRow =>
    simp only [Machine.exec, execTileFetchRow] at h
    split_ifs at h
    cases h
    exact hs.emit _
  case fbPlot x y q c =>
    simp only [Machine.exec, execFbPlot] at h
    split_ifs at h with hx hy hq
    cases h
    exact hs.setFrame (Frame.tagsLegal_plot hs.tags _ _ c hq)
  case drawTile =>
    simp only [Machine.exec, execDrawTile] at h
    split_ifs at h with hn hy hbase
    cases h
    exact hs.setFrame (Frame.tagsLegal_drawTile hs.tags _ _ _ hbase)
  all_goals cases h
  case palBg | palObj => exact hs.emit _
  case fbClear => exact hs.setFrame Frame.tagsLegal_cleared
  case fbPresent => exact hs.present
  case draw ly => exact s.onLine_induct ly _ hs hs.drawLine
  case drawBg ly => exact s.onLine_induct ly _ hs hs.drawBgLine
  case drawObj ly => exact s.onLine_induct ly _ hs hs.drawObjLine
  case drawWin ly => exact s.onLine_induct ly _ hs hs.drawWinLine
  case tick n => exact hs.tick n
  case line => exact hs.line
  case reset => exact hs.restart
  case palInit => exact hs.palInit

/-- Every host step keeps the invariant. -/
theorem State.Inv.hostStep {g : HostStep} (h : s.hostStep g = .next t) : t.Inv := by
  obtain ⟨hvram, hoam⟩ := hs.memory
  cases g <;> simp only [State.hostStep] at h
  case writeVram a v =>
    split_ifs at h with ha
    cases h
    exact hs.setMemories (Memory.write_wf hvram ha v) hoam
  case writeOam a v =>
    split_ifs at h with ha
    cases h
    exact hs.setMemories hvram (Memory.write_wf hoam ha v)
  case readVram | readOam =>
    split_ifs at h
    cases h
    exact hs.emit _
  case readReg =>
    cases h
    exact hs.emit _
  case writeReg | setHdma | clearRequest =>
    cases h
    exact hs.setRest _ _ _ _ _ _

end

/-- Settles O47: taking the entry off the host's list keeps the invariant, and so does performing it. -/
theorem stepKeepsInvariant : Obligations.StepKeepsInvariant := by
  intro s t hs h
  rcases step_next h with ⟨-, rfl⟩ | ⟨g, rest, -, hg⟩ | ⟨c, i, rest, -, -, hi⟩
  · exact hs
  · exact State.Inv.hostStep (hs.setRest s.regs s.vblankCount s.hdmaActive s.requests s.events rest) hg
  · exact State.Inv.exec (hs.setRest s.regs s.vblankCount s.hdmaActive s.requests s.events rest) hi

end Sys2Proof.Machine
end
